-- ==== Sys2Proof/Config.lean ====
section
/-!
DEFINITION. The implementation parameters of 00_scope.md R6. `Params` is a build: a value of every parameter, with
the constraints of 00_scope.md R7. The instructions, the decoder, the state, every meaning, the dispatch, the step and
the machine (`machineOf` in Machine/Builds.lean) take a build as an argument and are written in terms of its fields
alone. The constants under the spec's own names are the values R6 fixes for the LSG core; `lsg` in Machine/Tables.lean
is the build that has them, and the machine the host reads is the one at that build (assumption log entry 5).
There is no free value: the spec leaves no instruction's result open.
-/

namespace Sys2Proof.Config

/-- Number of channels. -/
abbrev NUM_CH : Nat := 13
/-- Wavetable generator slots. -/
abbrev NUM_SLOTS : Nat := 16
/-- The generator-binding value that selects the live noise generator. -/
abbrev NOISE_SEL : Nat := 0xFF
/-- Samples per wavetable slot. -/
abbrev WT_LEN : Nat := 16384
/-- Output sample rate in Hz. -/
abbrev F_S : Nat := 44100
/-- Near-term ring slots per channel. -/
abbrev RING_CAP : Nat := 64
/-- Fetch interval: ticks between ring consumptions. -/
abbrev FI : Nat := 64
/-- Log entries a fill may advance over, per channel per render. -/
abbrev SCAN_LIMIT : Nat := 256
/-- Far-term log entries per channel. -/
abbrev LOG_CAP : Nat := 4096
/-- Fixed-point full-scale gain. -/
abbrev GAIN_MAX : Nat := 32768
/-- The small positive floor of the sustain fade. -/
abbrev GAIN_SNAP_FLOOR : Nat := 1
/-- Top of every volume range. -/
abbrev VOL_MAX : Nat := 127
/-- Top of the bend magnitude range. -/
abbrev BEND_MAX : Nat := 63
/-- Note numbers and custom table slots. -/
abbrev NOTE_COUNT : Nat := 128
/-- Width of the noise register. -/
abbrev LFSR_BITS : Nat := 15
/-- The value reset and INIT load into every noise register. -/
abbrev NOISE_SEED : Nat := 0x0001
/-- Magnitude of a live noise sample. -/
abbrev NOISE_AMP : Nat := 32767
/-- Harmonic coefficient buffer entries. -/
abbrev NUM_HARM : Nat := 32
/-- Smoothing-filter taps. -/
abbrev NUM_TAPS : Nat := 4
/-- Sample-index stride between filter taps. -/
abbrev FILTER_STRIDE : Nat := 1000
/-- Size of the output memory in bytes. -/
abbrev OUT_BYTES : Nat := 0x100000
/-- Width of the global tick. -/
abbrev TICK_BITS : Nat := 32
/-- Fraction bits of every frequency value. -/
abbrev FREQ_FRAC : Nat := 16

/-- A build of the block: the parameters of 00_scope.md R6, one field each, with the constraints of 00_scope.md R7 and
the properties a table or noise step of a model has (43_oscillator_gain.md R272 and 93_implementation_defined.md G-1:
positive entries, every note's frequency in 32 bits; 40_wavetable_bank.md R206; 43_oscillator_gain.md R281).
The last five constraints are the widths the field formats fix: `VOL_MAX` and `BEND_MAX` are the tops of the 7-bit
`VOL` and the 6-bit `PBMAG`, `NOTE_COUNT` the number of values of the 7-bit `NOTE` (30_encoding.md R140),
`LFSR_BITS` the width of uint15 (10_state.md R37), `TICK_BITS` that of uint32 (10_state.md R31, 46_render.md R348).
DESIGN CHOICE: `NUM_HARM`, `NUM_TAPS` and `RING_CAP` have no upper bound, as in R7, so that in a build with more than
256 harmonics or taps the pointers that 10_state.md R31 makes uint8 are wider (assumption log entry 16). -/
structure Params where
  numCh         : Nat
  numSlots      : Nat
  noiseSel      : Nat
  wtLen         : Nat
  fS            : Nat
  ringCap       : Nat
  fi            : Nat
  scanLimit     : Nat
  logCap        : Nat
  gainMax       : Nat
  gainSnapFloor : Nat
  volMax        : Nat
  bendMax       : Nat
  noteCount     : Nat
  lfsrBits      : Nat
  noiseSeed     : Nat
  noiseAmp      : Nat
  numHarm       : Nat
  numTaps       : Nat
  filterStride  : Nat
  outBytes      : Nat
  tickBits      : Nat
  freqFrac      : Nat
  /-- `BASE12[0..11]` (43_oscillator_gain.md R271). -/
  base12        : Vector Nat 12
  /-- `SIN_ROM(k)` (40_wavetable_bank.md R206). -/
  sinRom        : Nat → Int
  /-- `lfsr_step` (43_oscillator_gain.md R281). -/
  lfsrStep      : BitVec lfsrBits → BitVec lfsrBits
  numCh_range         : 1 ≤ numCh ∧ numCh ≤ 16
  numSlots_range      : 1 ≤ numSlots ∧ numSlots ≤ 255
  noiseSel_eq         : noiseSel = 0xFF
  wtLen_range         : 4 ∣ wtLen ∧ 4 ≤ wtLen ∧ wtLen ≤ 65536
  fi_power            : ∃ k, k ≤ 31 ∧ fi = 2 ^ k
  ringCap_pos         : 1 ≤ ringCap
  scanLimit_pos       : 1 ≤ scanLimit
  logCap_range        : 1 ≤ logCap ∧ logCap ≤ 65536
  gainMax_power       : ∃ k, k ≤ 15 ∧ gainMax = 2 ^ k
  gainSnapFloor_range : 1 ≤ gainSnapFloor ∧ gainSnapFloor ≤ gainMax
  noiseSeed_range     : 1 ≤ noiseSeed ∧ noiseSeed < 2 ^ 15
  noiseAmp_range      : 1 ≤ noiseAmp ∧ noiseAmp ≤ 32767
  fS_pos              : 1 ≤ fS
  numHarm_pos         : 1 ≤ numHarm
  numTaps_pos         : 1 ≤ numTaps
  outBytes_range      : 4 ≤ outBytes ∧ outBytes ≤ 2 ^ 32
  base12_pos          : ∀ j : Fin 12, 0 < base12[j]
  base12_fits         : ∀ n, n < 128 → (base12[n % 12]'(Nat.mod_lt n (by decide))) * 2 ^ (n / 12 - 2) < 2 ^ 32
  sinRom_quarters     : sinRom 0 = 0 ∧ sinRom (wtLen / 4) = 32767 ∧ sinRom (wtLen / 2) = 0 ∧
                        sinRom (3 * wtLen / 4) = -32767
  sinRom_range        : ∀ k, k < wtLen → -32767 ≤ sinRom k ∧ sinRom k ≤ 32767
  lfsrStep_injective  : Function.Injective lfsrStep
  lfsrStep_zero       : lfsrStep 0 = 0
  volMax_eq           : volMax = 127
  bendMax_eq          : bendMax = 63
  noteCount_eq        : noteCount = 128
  lfsrBits_eq         : lfsrBits = 15
  tickBits_eq         : tickBits = 32

namespace Params

theorem numCh_pos (P : Params) : 0 < P.numCh := P.numCh_range.1
theorem numSlots_pos (P : Params) : 0 < P.numSlots := P.numSlots_range.1
theorem wtLen_pos (P : Params) : 0 < P.wtLen := Nat.lt_of_lt_of_le (by decide) P.wtLen_range.2.1
theorem logCap_pos (P : Params) : 0 < P.logCap := P.logCap_range.1
theorem noteCount_pos (P : Params) : 0 < P.noteCount := by rw [P.noteCount_eq]; decide

end Params

end Sys2Proof.Config
end

