-- ==== Sys2Proof/Word.lean ====
section
/-!
DEFINITION. The widths of stored values (00_scope.md R8): a 32-bit word, an output byte, a 16-bit sample.
-/

namespace Sys2Proof

/-- A 32-bit register, command or generator word (uint32 or int32 of 00_scope.md R8). -/
abbrev Word := BitVec 32

/-- A byte of the output memory (20_memory.md R103). -/
abbrev Byte := BitVec 8

/-- A stored int16: a wavetable sample, a harmonic coefficient, a filter tap (10_state.md R48, R50). -/
abbrev Sample := BitVec 16

end Sys2Proof
end

