-- ==== Sys2Proof/Machine/Arith.lean ====
section
/-!
DEFINITION. The arithmetic primitives of 00_scope.md R9, on exact integers.
-/

namespace Sys2Proof.Machine

/-- `tdiv(a, b)`: division truncated toward zero (00_scope.md R9). -/
def tdiv (a b : Int) : Int := Int.tdiv a b

/-- `emod(a, b)`, in `[0, b)` for `b > 0` (00_scope.md R9). -/
def emod (a b : Int) : Int := a - b * Int.fdiv a b

/-- `rnd(p, q)`: nearest integer to `p / q`, ties away from zero (00_scope.md R9). -/
def rnd (p q : Int) : Int := p.sign * Int.fdiv (2 * (p.natAbs : Int) + q) (2 * q)

/-- `clamp(v, lo, hi)` (00_scope.md R9). -/
def clamp (v lo hi : Int) : Int := min (max v lo) hi

end Sys2Proof.Machine
end

