-- ==== Sys2Proof/Machine/Tables.lean ====
section
/-!
DEFINITION. The constant tables (10_state.md R51) and the noise step at the values the spec gives them: `BASE12`
(43_oscillator_gain.md R271), `SIN_ROM` (40_wavetable_bank.md R206), `lfsr_step` (43_oscillator_gain.md R281). The
spec marks these as general knowledge and lets a model take others (assumption log entries 13 and 14). Then the
build of the LSG core, with every parameter at the value 00_scope.md R6 fixes.
-/

namespace Sys2Proof.Machine

open Config

/-- The 12-entry standard table, Q16.16 Hz (43_oscillator_gain.md R271). -/
def BASE12 : Vector Nat 12 :=
  #v[2143237, 2270680, 2405702, 2548752, 2700309, 2860878, 3030994, 3211227, 3402176, 3604480, 3818814, 4045892]

/-- `lfsr_step(r) = {r[0] XOR r[1], r[14:1]}` (43_oscillator_gain.md R281). -/
def lfsrStep (r : BitVec LFSR_BITS) : BitVec LFSR_BITS :=
  BitVec.ofBool (r.getLsbD 0 ^^ r.getLsbD 1) ++ r.extractLsb' 1 14

/-- The noise step loses nothing: a bijection, as it maps a finite set into itself (43_oscillator_gain.md R281). -/
theorem lfsrStep_injective : Function.Injective lfsrStep := by
  have value (r : BitVec LFSR_BITS) :
      (lfsrStep r).toNat = (r.toNat % 2 + r.toNat / 2 % 2) % 2 * 2 ^ 14 + r.toNat / 2 := by
    have h : r.toNat < 2 ^ 15 := r.isLt
    unfold lfsrStep
    rw [BitVec.toNat_append, ← Nat.shiftLeft_add_eq_or_of_lt (BitVec.isLt _)]
    simp only [BitVec.toNat_ofBool, BitVec.getLsbD, Nat.testBit, BitVec.extractLsb'_toNat, Nat.shiftLeft_eq,
      Nat.shiftRight_eq_div_pow, Nat.and_comm 1, Nat.and_one_is_mod]
    rcases Nat.mod_two_eq_zero_or_one r.toNat with a | a <;>
      rcases Nat.mod_two_eq_zero_or_one (r.toNat / 2) with b | b <;>
        simp [a, b] <;> omega
  intro a b h
  have h := congrArg BitVec.toNat h
  rw [value, value] at h
  have ha : a.toNat < 2 ^ 15 := a.isLt
  have hb : b.toNat < 2 ^ 15 := b.isLt
  have hq : a.toNat / 2 = b.toNat / 2 := by omega
  rw [hq] at h
  apply BitVec.eq_of_toNat_eq
  omega

/-! ### The sine table -/

/-- The fixed-point scale of the sine computation. -/
def sineScale : Int := 2 ^ 64

/-- `π` at that scale, rounded down. -/
def piScaled : Int := 57952155664616982739

/-- Horner's rule for `1 - t/(2·3)·(1 - t/(4·5)·(…))`, `t = x²` at the scale: the Taylor series of
`sin x / x`, from the factor `n` on, `fuel` factors deep. -/
def sineSeries (t : Int) : Nat → Int → Int
  | 0, _ => sineScale
  | fuel + 1, n =>
    sineScale - Int.fdiv (t * sineSeries t fuel (n + 1)) (sineScale * (2 * n) * (2 * n + 1))

/-- `rnd_real(32767 · sin(2π·k / WT_LEN))` for `k` in the first quarter. The clamp changes no value; it makes the
range of the table plain. -/
def sineQuarter (k : Nat) : Int :=
  let x := Int.fdiv (2 * piScaled * k) WT_LEN
  let t := Int.fdiv (x * x) sineScale
  clamp (rnd (32767 * x * sineSeries t 13 1) (sineScale * sineScale)) (-32767) 32767

/-- `SIN_ROM(k)` (40_wavetable_bank.md R206), computed in the first quarter and mirrored into the others. -/
def sinRom (k : Nat) : Int :=
  let q := WT_LEN / 4
  if k < q then sineQuarter k
  else if k < 2 * q then sineQuarter (2 * q - k)
  else if k < 3 * q then -sineQuarter (k - 2 * q)
  else -sineQuarter (4 * q - k)

/-- `|SIN_ROM(k)| ≤ 32767` (40_wavetable_bank.md R206). -/
theorem sinRom_range (k : Nat) : -32767 ≤ sinRom k ∧ sinRom k ≤ 32767 := by
  have quarter (j : Nat) : -32767 ≤ sineQuarter j ∧ sineQuarter j ≤ 32767 := by
    simp only [sineQuarter, clamp]
    omega
  simp only [sinRom]
  split
  · exact quarter k
  split
  · exact quarter _
  split
  · have := quarter (k - 2 * (WT_LEN / 4))
    omega
  · have := quarter (4 * (WT_LEN / 4) - k)
    omega

/-! ### The build -/

/-- The build of the LSG core: every parameter at the value 00_scope.md R6 fixes, every constraint proved. -/
abbrev lsg : Params where
  numCh := NUM_CH
  numSlots := NUM_SLOTS
  noiseSel := NOISE_SEL
  wtLen := WT_LEN
  fS := F_S
  ringCap := RING_CAP
  fi := FI
  scanLimit := SCAN_LIMIT
  logCap := LOG_CAP
  gainMax := GAIN_MAX
  gainSnapFloor := GAIN_SNAP_FLOOR
  volMax := VOL_MAX
  bendMax := BEND_MAX
  noteCount := NOTE_COUNT
  lfsrBits := LFSR_BITS
  noiseSeed := NOISE_SEED
  noiseAmp := NOISE_AMP
  numHarm := NUM_HARM
  numTaps := NUM_TAPS
  filterStride := FILTER_STRIDE
  outBytes := OUT_BYTES
  tickBits := TICK_BITS
  freqFrac := FREQ_FRAC
  base12 := BASE12
  sinRom := sinRom
  lfsrStep := lfsrStep
  numCh_range := by decide
  numSlots_range := by decide
  noiseSel_eq := rfl
  wtLen_range := by decide
  fi_power := ⟨6, by decide, rfl⟩
  ringCap_pos := by decide
  scanLimit_pos := by decide
  logCap_range := by decide
  gainMax_power := ⟨15, by decide, rfl⟩
  gainSnapFloor_range := by decide
  noiseSeed_range := by decide
  noiseAmp_range := by decide
  fS_pos := by decide
  numHarm_pos := by decide
  numTaps_pos := by decide
  outBytes_range := by decide
  base12_pos := by decide
  base12_fits := by decide
  sinRom_quarters := by decide
  sinRom_range := fun k _ => sinRom_range k
  lfsrStep_injective := lfsrStep_injective
  lfsrStep_zero := by decide
  volMax_eq := rfl
  bendMax_eq := rfl
  noteCount_eq := rfl
  lfsrBits_eq := rfl
  tickBits_eq := rfl

end Sys2Proof.Machine
end

