-- ==== Sys2Proof/Syntax.lean ====
section
/-!
DEFINITION. The instructions: one constructor of Instr per row of spec/opcode_table.json (10_state.md R30:
command words, generator words, host register operations), the registers of the map (10_state.md R55 to
R58), and what reaches the block from outside (00_scope.md R13, 70_reset_and_hazards.md R450).
-/

namespace Sys2Proof

open Config

/-- A channel index of a build, 0 … NUM_CH-1 (10_state.md R33). Written without a build it is that of the LSG core, as
every type below that takes one. -/
abbrev Chan (P : Params := Machine.lsg) := Fin P.numCh

/-- The fields of a command word that no form fixes (30_encoding.md R140): `rsv` is the reserved field,
which a well-formed word holds at 0 (R143). -/
structure CmdFields where
  volp  : Bool
  pbp   : Bool
  rsv   : BitVec 6
  vol   : BitVec 7
  pbdir : Bool
  pbmag : BitVec 6
  note  : BitVec 7
  deriving DecidableEq, Repr

/-- The global registers (10_state.md R55). -/
inductive GReg where
  | ctrl | status | tick | rbase | rcount | rstride | rfmt | rgo | gcmd | garg0
  | garg1 | wtaddr | wtdata | hcaddr | hcdata | ctaddr | ctdata | tapaddr | tapdata
  deriving DecidableEq, Repr

/-- The registers of one channel block (10_state.md R56, R57, R58). -/
inductive CReg where
  | gensel | attack | decay | sustain | release | faderate | detune | volume | sysvol | fadetgt | noteoff | chctrl
  | schofs | schcmd | ringidx | ringdata | logctrl | logcount | logcursor | apptick | appcmd | loopfirst | looplast | loopstart | loopend | logidx | logtick | logcmd
  | envphase | gain | keycnt | notevol | basefreq | bentfreq | lastnote | oscpos | lfsr | ringhead
  deriving DecidableEq, Repr

/-- One constructor per row of spec/opcode_table.json, in the table's order.

* Command words (30_encoding.md R145): `c` is the channel the word is applied to and `i` the frame index
  within the render; both come from where the word stands (41_command_apply.md R230), not from its bits.
  A bit the form ignores is an operand too (`kon`, `nokey`), so that no bit of a word is lost.
* Generator words (30_encoding.md R160): destination slot, the two source slots.
* Host register operations (30_encoding.md R165): the channel of a channel register, the written value. -/
inductive Instr (P : Params := Machine.lsg) where
  | nop    (c : Chan P) (i : Nat) (kon nokey : Bool) (f : CmdFields)
  | keyon  (c : Chan P) (i : Nat) (f : CmdFields)
  | keyoff (c : Chan P) (i : Nat) (f : CmdFields)
  | param  (c : Chan P) (i : Nat) (kon : Bool) (f : CmdFields)
  | genSilence (dst srcA srcB : BitVec 8)
  | genSquare50 (dst srcA srcB : BitVec 8)
  | genSquare25 (dst srcA srcB : BitVec 8)
  | genSineadd (dst srcA srcB : BitVec 8)
  | genNoiseburst (dst srcA srcB : BitVec 8)
  | genTriangle (dst srcA srcB : BitVec 8)
  | genMix (dst srcA srcB : BitVec 8)
  | genFilter (dst srcA srcB : BitVec 8)
  | wrCtrl (v : Word)
  | rdCtrl
  | wrStatus (v : Word)
  | rdStatus
  | wrTick (v : Word)
  | rdTick
  | wrRbase (v : Word)
  | rdRbase
  | wrRcount (v : Word)
  | rdRcount
  | wrRstride (v : Word)
  | rdRstride
  | wrRfmt (v : Word)
  | rdRfmt
  | wrRgo (v : Word)
  | rdRgo
  | wrGcmd (v : Word)
  | rdGcmd
  | wrGarg0 (v : Word)
  | rdGarg0
  | wrGarg1 (v : Word)
  | rdGarg1
  | wrWtaddr (v : Word)
  | rdWtaddr
  | wrWtdata (v : Word)
  | rdWtdata
  | wrHcaddr (v : Word)
  | rdHcaddr
  | wrHcdata (v : Word)
  | rdHcdata
  | wrCtaddr (v : Word)
  | rdCtaddr
  | wrCtdata (v : Word)
  | rdCtdata
  | wrTapaddr (v : Word)
  | rdTapaddr
  | wrTapdata (v : Word)
  | rdTapdata
  | wrChGensel (c : Chan P) (v : Word)
  | rdChGensel (c : Chan P)
  | wrChAttack (c : Chan P) (v : Word)
  | rdChAttack (c : Chan P)
  | wrChDecay (c : Chan P) (v : Word)
  | rdChDecay (c : Chan P)
  | wrChSustain (c : Chan P) (v : Word)
  | rdChSustain (c : Chan P)
  | wrChRelease (c : Chan P) (v : Word)
  | rdChRelease (c : Chan P)
  | wrChFaderate (c : Chan P) (v : Word)
  | rdChFaderate (c : Chan P)
  | wrChDetune (c : Chan P) (v : Word)
  | rdChDetune (c : Chan P)
  | wrChVolume (c : Chan P) (v : Word)
  | rdChVolume (c : Chan P)
  | wrChSysvol (c : Chan P) (v : Word)
  | rdChSysvol (c : Chan P)
  | wrChFadetgt (c : Chan P) (v : Word)
  | rdChFadetgt (c : Chan P)
  | wrChNoteoff (c : Chan P) (v : Word)
  | rdChNoteoff (c : Chan P)
  | wrChChctrl (c : Chan P) (v : Word)
  | rdChChctrl (c : Chan P)
  | wrChSchofs (c : Chan P) (v : Word)
  | rdChSchofs (c : Chan P)
  | wrChSchcmd (c : Chan P) (v : Word)
  | rdChSchcmd (c : Chan P)
  | wrChRingidx (c : Chan P) (v : Word)
  | rdChRingidx (c : Chan P)
  | wrChRingdata (c : Chan P) (v : Word)
  | rdChRingdata (c : Chan P)
  | wrChLogctrl (c : Chan P) (v : Word)
  | rdChLogctrl (c : Chan P)
  | wrChLogcount (c : Chan P) (v : Word)
  | rdChLogcount (c : Chan P)
  | wrChLogcursor (c : Chan P) (v : Word)
  | rdChLogcursor (c : Chan P)
  | wrChApptick (c : Chan P) (v : Word)
  | rdChApptick (c : Chan P)
  | wrChAppcmd (c : Chan P) (v : Word)
  | rdChAppcmd (c : Chan P)
  | wrChLoopfirst (c : Chan P) (v : Word)
  | rdChLoopfirst (c : Chan P)
  | wrChLooplast (c : Chan P) (v : Word)
  | rdChLooplast (c : Chan P)
  | wrChLoopstart (c : Chan P) (v : Word)
  | rdChLoopstart (c : Chan P)
  | wrChLoopend (c : Chan P) (v : Word)
  | rdChLoopend (c : Chan P)
  | wrChLogidx (c : Chan P) (v : Word)
  | rdChLogidx (c : Chan P)
  | wrChLogtick (c : Chan P) (v : Word)
  | rdChLogtick (c : Chan P)
  | wrChLogcmd (c : Chan P) (v : Word)
  | rdChLogcmd (c : Chan P)
  | wrChEnvphase (c : Chan P) (v : Word)
  | rdChEnvphase (c : Chan P)
  | wrChGain (c : Chan P) (v : Word)
  | rdChGain (c : Chan P)
  | wrChKeycnt (c : Chan P) (v : Word)
  | rdChKeycnt (c : Chan P)
  | wrChNotevol (c : Chan P) (v : Word)
  | rdChNotevol (c : Chan P)
  | wrChBasefreq (c : Chan P) (v : Word)
  | rdChBasefreq (c : Chan P)
  | wrChBentfreq (c : Chan P) (v : Word)
  | rdChBentfreq (c : Chan P)
  | wrChLastnote (c : Chan P) (v : Word)
  | rdChLastnote (c : Chan P)
  | wrChOscpos (c : Chan P) (v : Word)
  | rdChOscpos (c : Chan P)
  | wrChLfsr (c : Chan P) (v : Word)
  | rdChLfsr (c : Chan P)
  | wrChRinghead (c : Chan P) (v : Word)
  | rdChRinghead (c : Chan P)
  deriving DecidableEq, Repr

/-- The width of a bus access. Only `word` has a meaning (20_memory.md R101). -/
inductive Width where
  | byte | half | word | dword
  deriving DecidableEq, Repr

/-- One access of the host to the register space, byte addresses 0x0000 … 0x1FFF (10_state.md R54). -/
inductive BusOp where
  | write (w : Width) (addr : BitVec 13) (data : Word)
  | read  (w : Width) (addr : BitVec 13)
  deriving DecidableEq, Repr

/-- What reaches the block from outside: a host bus operation (00_scope.md R13) or the reset input
(70_reset_and_hazards.md R450). -/
inductive Input where
  | reset
  | bus (op : BusOp)
  deriving DecidableEq, Repr

end Sys2Proof
end

