-- ==== Sys2Proof/WellFormed.lean ====
section
/-!
DEFINITION. Which instructions are well-formed. A command word is well-formed iff its reserved field is 0
(30_encoding.md R143); the frame index a command carries is one a render can have, below 2^32 (10_state.md
R31: `g.rcount` is uint32). Every other operand is legal at every value: a bad one is answered by a result
code (60_exceptions.md R421), which is the instruction's effect.
-/

namespace Sys2Proof

open Config

/-- 30_encoding.md R143 and the range of a frame index. -/
def CmdFields.wellFormed (i : Nat) (f : CmdFields) : Bool :=
  decide (f.rsv = 0) && decide (i < 2 ^ 32)

/-- The check, constructor by constructor. -/
def Instr.wellFormed {P : Params} : Instr P → Bool
  | .nop _ i _ _ f => f.wellFormed i
  | .keyon _ i f => f.wellFormed i
  | .keyoff _ i f => f.wellFormed i
  | .param _ i _ f => f.wellFormed i
  | .genSilence _ _ _ => true
  | .genSquare50 _ _ _ => true
  | .genSquare25 _ _ _ => true
  | .genSineadd _ _ _ => true
  | .genNoiseburst _ _ _ => true
  | .genTriangle _ _ _ => true
  | .genMix _ _ _ => true
  | .genFilter _ _ _ => true
  | .wrCtrl _ => true
  | .rdCtrl => true
  | .wrStatus _ => true
  | .rdStatus => true
  | .wrTick _ => true
  | .rdTick => true
  | .wrRbase _ => true
  | .rdRbase => true
  | .wrRcount _ => true
  | .rdRcount => true
  | .wrRstride _ => true
  | .rdRstride => true
  | .wrRfmt _ => true
  | .rdRfmt => true
  | .wrRgo _ => true
  | .rdRgo => true
  | .wrGcmd _ => true
  | .rdGcmd => true
  | .wrGarg0 _ => true
  | .rdGarg0 => true
  | .wrGarg1 _ => true
  | .rdGarg1 => true
  | .wrWtaddr _ => true
  | .rdWtaddr => true
  | .wrWtdata _ => true
  | .rdWtdata => true
  | .wrHcaddr _ => true
  | .rdHcaddr => true
  | .wrHcdata _ => true
  | .rdHcdata => true
  | .wrCtaddr _ => true
  | .rdCtaddr => true
  | .wrCtdata _ => true
  | .rdCtdata => true
  | .wrTapaddr _ => true
  | .rdTapaddr => true
  | .wrTapdata _ => true
  | .rdTapdata => true
  | .wrChGensel _ _ => true
  | .rdChGensel _ => true
  | .wrChAttack _ _ => true
  | .rdChAttack _ => true
  | .wrChDecay _ _ => true
  | .rdChDecay _ => true
  | .wrChSustain _ _ => true
  | .rdChSustain _ => true
  | .wrChRelease _ _ => true
  | .rdChRelease _ => true
  | .wrChFaderate _ _ => true
  | .rdChFaderate _ => true
  | .wrChDetune _ _ => true
  | .rdChDetune _ => true
  | .wrChVolume _ _ => true
  | .rdChVolume _ => true
  | .wrChSysvol _ _ => true
  | .rdChSysvol _ => true
  | .wrChFadetgt _ _ => true
  | .rdChFadetgt _ => true
  | .wrChNoteoff _ _ => true
  | .rdChNoteoff _ => true
  | .wrChChctrl _ _ => true
  | .rdChChctrl _ => true
  | .wrChSchofs _ _ => true
  | .rdChSchofs _ => true
  | .wrChSchcmd _ _ => true
  | .rdChSchcmd _ => true
  | .wrChRingidx _ _ => true
  | .rdChRingidx _ => true
  | .wrChRingdata _ _ => true
  | .rdChRingdata _ => true
  | .wrChLogctrl _ _ => true
  | .rdChLogctrl _ => true
  | .wrChLogcount _ _ => true
  | .rdChLogcount _ => true
  | .wrChLogcursor _ _ => true
  | .rdChLogcursor _ => true
  | .wrChApptick _ _ => true
  | .rdChApptick _ => true
  | .wrChAppcmd _ _ => true
  | .rdChAppcmd _ => true
  | .wrChLoopfirst _ _ => true
  | .rdChLoopfirst _ => true
  | .wrChLooplast _ _ => true
  | .rdChLooplast _ => true
  | .wrChLoopstart _ _ => true
  | .rdChLoopstart _ => true
  | .wrChLoopend _ _ => true
  | .rdChLoopend _ => true
  | .wrChLogidx _ _ => true
  | .rdChLogidx _ => true
  | .wrChLogtick _ _ => true
  | .rdChLogtick _ => true
  | .wrChLogcmd _ _ => true
  | .rdChLogcmd _ => true
  | .wrChEnvphase _ _ => true
  | .rdChEnvphase _ => true
  | .wrChGain _ _ => true
  | .rdChGain _ => true
  | .wrChKeycnt _ _ => true
  | .rdChKeycnt _ => true
  | .wrChNotevol _ _ => true
  | .rdChNotevol _ => true
  | .wrChBasefreq _ _ => true
  | .rdChBasefreq _ => true
  | .wrChBentfreq _ _ => true
  | .rdChBentfreq _ => true
  | .wrChLastnote _ _ => true
  | .rdChLastnote _ => true
  | .wrChOscpos _ _ => true
  | .rdChOscpos _ => true
  | .wrChLfsr _ _ => true
  | .rdChLfsr _ => true
  | .wrChRinghead _ _ => true
  | .rdChRinghead _ => true

end Sys2Proof
end

