-- ==== Sys2Proof/Decode.lean ====
section
/-!
DEFINITION. The decoder, total on every word and every bus access and rejecting by name, and after it the
encoder, both written from the encoding tables of the spec (30_encoding.md R140 to R165, 10_state.md R54
to R60). The encoder is the decoder's converse; Certificates/Slice0/Obligations.lean states that they agree.
-/

namespace Sys2Proof

open Config

variable {P : Params}

/-- Why a command or generator word is no instruction. -/
inductive WordReject where
  /-- A command word with `RSV ≠ 0` (30_encoding.md R143, R145). -/
  | reservedCommandBits
  /-- A generator word with `GRSV ≠ 0` (30_encoding.md R162). -/
  | reservedGeneratorBits
  /-- A generator word with `OP ≥ 8` (30_encoding.md R162). -/
  | reservedGeneratorOp
  deriving DecidableEq, Repr

/-- Why a bus access is no register operation. -/
inductive AccessReject where
  /-- An address in a channel block of an absent channel (10_state.md R60, 47_host_ops.md R410). -/
  | absentChannel
  /-- Any other address that names no register (47_host_ops.md R410). -/
  | unmapped
  /-- An access at an address that is no multiple of 4 (20_memory.md R101). -/
  | misaligned
  /-- An access narrower or wider than 32 bits (20_memory.md R101). -/
  | notAWord
  deriving DecidableEq, Repr

/-- Why an encoded instruction is none. -/
inductive Reject where
  | word (why : WordReject)
  | access (why : AccessReject)
  deriving DecidableEq, Repr

/-- An instruction as it stands in the machine: a command word in a ring, a generator word, a bus access. -/
inductive Encoded (P : Params := Machine.lsg) where
  | command (c : Chan P) (i : Nat) (w : Word)
  | generator (w : Word)
  | bus (op : BusOp)
  deriving DecidableEq, Repr

/-! ### Command words (30_encoding.md R140, R141, R145) -/

/-- The four forms of a command word, before a channel and a frame are known. -/
inductive CmdForm where
  | nop (kon nokey : Bool) (f : CmdFields)
  | keyon (f : CmdFields)
  | keyoff (f : CmdFields)
  | param (kon : Bool) (f : CmdFields)
  deriving DecidableEq, Repr

/-- `EN = w[31]`. -/
def cmdEn (w : Word) : Bool := w.getLsbD 31
/-- `KON = w[30]`. -/
def cmdKon (w : Word) : Bool := w.getLsbD 30
/-- `NOKEY = w[29]`. -/
def cmdNokey (w : Word) : Bool := w.getLsbD 29
/-- `RSV = w[26:21]`. -/
def cmdRsv (w : Word) : BitVec 6 := w.extractLsb' 21 6

/-- The remaining fields of 30_encoding.md R141: `VOLP = w[28]`, `PBP = w[27]`, `RSV = w[26:21]`,
`VOL = w[20:14]`, `PBDIR = w[13]`, `PBMAG = w[12:7]`, `NOTE = w[6:0]`. -/
def cmdFields (w : Word) : CmdFields where
  volp  := w.getLsbD 28
  pbp   := w.getLsbD 27
  rsv   := cmdRsv w
  vol   := w.extractLsb' 14 7
  pbdir := w.getLsbD 13
  pbmag := w.extractLsb' 7 6
  note  := w.extractLsb' 0 7

/-- The form, chosen by `EN`, `NOKEY` and `KON` (30_encoding.md R145). -/
def formOf (w : Word) : CmdForm :=
  if !cmdEn w then .nop (cmdKon w) (cmdNokey w) (cmdFields w)
  else if cmdNokey w then .param (cmdKon w) (cmdFields w)
  else if cmdKon w then .keyon (cmdFields w)
  else .keyoff (cmdFields w)

/-- The instruction a form is, applied to channel `c` at frame `i`. -/
def CmdForm.instr (c : Chan P) (i : Nat) : CmdForm → Instr P
  | .nop kon nokey f => .nop c i kon nokey f
  | .keyon f => .keyon c i f
  | .keyoff f => .keyoff c i f
  | .param kon f => .param c i kon f

/-- A command word with `RSV ≠ 0` matches no form (30_encoding.md R145). -/
def decodeCommand (c : Chan P) (i : Nat) (w : Word) : Except WordReject (Instr P) :=
  if cmdRsv w = 0 then .ok ((formOf w).instr c i) else .error .reservedCommandBits

/-! ### Generator words (30_encoding.md R160, R161, R162) -/

/-- `OP = v[3:0]`. -/
def genOp (v : Word) : BitVec 4 := v.extractLsb' 0 4
/-- `GRSV = v[7:4]`. -/
def genRsv (v : Word) : BitVec 4 := v.extractLsb' 4 4
/-- `DST = v[15:8]`. -/
def genDst (v : Word) : BitVec 8 := v.extractLsb' 8 8
/-- `SRCA = v[23:16]`. -/
def genSrcA (v : Word) : BitVec 8 := v.extractLsb' 16 8
/-- `SRCB = v[31:24]`. -/
def genSrcB (v : Word) : BitVec 8 := v.extractLsb' 24 8

/-- The operation codes of 30_encoding.md R161. -/
def decodeGenerator (v : Word) : Except WordReject (Instr P) :=
  if genRsv v ≠ 0 then .error .reservedGeneratorBits
  else
    match (genOp v).toNat with
    | 0 => .ok (.genSilence (genDst v) (genSrcA v) (genSrcB v))
    | 1 => .ok (.genSquare50 (genDst v) (genSrcA v) (genSrcB v))
    | 2 => .ok (.genSquare25 (genDst v) (genSrcA v) (genSrcB v))
    | 3 => .ok (.genSineadd (genDst v) (genSrcA v) (genSrcB v))
    | 4 => .ok (.genNoiseburst (genDst v) (genSrcA v) (genSrcB v))
    | 5 => .ok (.genTriangle (genDst v) (genSrcA v) (genSrcB v))
    | 6 => .ok (.genMix (genDst v) (genSrcA v) (genSrcB v))
    | 7 => .ok (.genFilter (genDst v) (genSrcA v) (genSrcB v))
    | _ => .error .reservedGeneratorOp

/-! ### Register addresses (10_state.md R54 to R60, 30_encoding.md R165) -/

/-- The global register at `a[11:0]` (10_state.md R55). -/
def GReg.ofOffset (a : Nat) : Option GReg :=
  match a with
  | 0x000 => some .ctrl
  | 0x004 => some .status
  | 0x008 => some .tick
  | 0x010 => some .rbase
  | 0x014 => some .rcount
  | 0x018 => some .rstride
  | 0x01C => some .rfmt
  | 0x020 => some .rgo
  | 0x030 => some .gcmd
  | 0x034 => some .garg0
  | 0x038 => some .garg1
  | 0x040 => some .wtaddr
  | 0x044 => some .wtdata
  | 0x048 => some .hcaddr
  | 0x04C => some .hcdata
  | 0x050 => some .ctaddr
  | 0x054 => some .ctdata
  | 0x058 => some .tapaddr
  | 0x05C => some .tapdata
  | _ => none

/-- The channel register at offset `a[7:0]` (10_state.md R56, R57, R58). -/
def CReg.ofOffset (o : Nat) : Option CReg :=
  match o with
  | 0x00 => some .gensel
  | 0x04 => some .attack
  | 0x08 => some .decay
  | 0x0C => some .sustain
  | 0x10 => some .release
  | 0x14 => some .faderate
  | 0x18 => some .detune
  | 0x1C => some .volume
  | 0x20 => some .sysvol
  | 0x24 => some .fadetgt
  | 0x28 => some .noteoff
  | 0x2C => some .chctrl
  | 0x30 => some .schofs
  | 0x34 => some .schcmd
  | 0x38 => some .ringidx
  | 0x3C => some .ringdata
  | 0x40 => some .logctrl
  | 0x44 => some .logcount
  | 0x48 => some .logcursor
  | 0x4C => some .apptick
  | 0x50 => some .appcmd
  | 0x54 => some .loopfirst
  | 0x58 => some .looplast
  | 0x5C => some .loopstart
  | 0x60 => some .loopend
  | 0x64 => some .logidx
  | 0x68 => some .logtick
  | 0x6C => some .logcmd
  | 0x80 => some .envphase
  | 0x84 => some .gain
  | 0x88 => some .keycnt
  | 0x8C => some .notevol
  | 0x90 => some .basefreq
  | 0x94 => some .bentfreq
  | 0x98 => some .lastnote
  | 0x9C => some .oscpos
  | 0xA0 => some .lfsr
  | 0xA4 => some .ringhead
  | _ => none

/-- The write of a global register. -/
def GReg.wr (v : Word) : GReg → Instr P
  | .ctrl => .wrCtrl v
  | .status => .wrStatus v
  | .tick => .wrTick v
  | .rbase => .wrRbase v
  | .rcount => .wrRcount v
  | .rstride => .wrRstride v
  | .rfmt => .wrRfmt v
  | .rgo => .wrRgo v
  | .gcmd => .wrGcmd v
  | .garg0 => .wrGarg0 v
  | .garg1 => .wrGarg1 v
  | .wtaddr => .wrWtaddr v
  | .wtdata => .wrWtdata v
  | .hcaddr => .wrHcaddr v
  | .hcdata => .wrHcdata v
  | .ctaddr => .wrCtaddr v
  | .ctdata => .wrCtdata v
  | .tapaddr => .wrTapaddr v
  | .tapdata => .wrTapdata v

/-- The read of a global register. -/
def GReg.rd : GReg → Instr P
  | .ctrl => .rdCtrl
  | .status => .rdStatus
  | .tick => .rdTick
  | .rbase => .rdRbase
  | .rcount => .rdRcount
  | .rstride => .rdRstride
  | .rfmt => .rdRfmt
  | .rgo => .rdRgo
  | .gcmd => .rdGcmd
  | .garg0 => .rdGarg0
  | .garg1 => .rdGarg1
  | .wtaddr => .rdWtaddr
  | .wtdata => .rdWtdata
  | .hcaddr => .rdHcaddr
  | .hcdata => .rdHcdata
  | .ctaddr => .rdCtaddr
  | .ctdata => .rdCtdata
  | .tapaddr => .rdTapaddr
  | .tapdata => .rdTapdata

/-- The write of a register of channel `c`. -/
def CReg.wr (c : Chan P) (v : Word) : CReg → Instr P
  | .gensel => .wrChGensel c v
  | .attack => .wrChAttack c v
  | .decay => .wrChDecay c v
  | .sustain => .wrChSustain c v
  | .release => .wrChRelease c v
  | .faderate => .wrChFaderate c v
  | .detune => .wrChDetune c v
  | .volume => .wrChVolume c v
  | .sysvol => .wrChSysvol c v
  | .fadetgt => .wrChFadetgt c v
  | .noteoff => .wrChNoteoff c v
  | .chctrl => .wrChChctrl c v
  | .schofs => .wrChSchofs c v
  | .schcmd => .wrChSchcmd c v
  | .ringidx => .wrChRingidx c v
  | .ringdata => .wrChRingdata c v
  | .logctrl => .wrChLogctrl c v
  | .logcount => .wrChLogcount c v
  | .logcursor => .wrChLogcursor c v
  | .apptick => .wrChApptick c v
  | .appcmd => .wrChAppcmd c v
  | .loopfirst => .wrChLoopfirst c v
  | .looplast => .wrChLooplast c v
  | .loopstart => .wrChLoopstart c v
  | .loopend => .wrChLoopend c v
  | .logidx => .wrChLogidx c v
  | .logtick => .wrChLogtick c v
  | .logcmd => .wrChLogcmd c v
  | .envphase => .wrChEnvphase c v
  | .gain => .wrChGain c v
  | .keycnt => .wrChKeycnt c v
  | .notevol => .wrChNotevol c v
  | .basefreq => .wrChBasefreq c v
  | .bentfreq => .wrChBentfreq c v
  | .lastnote => .wrChLastnote c v
  | .oscpos => .wrChOscpos c v
  | .lfsr => .wrChLfsr c v
  | .ringhead => .wrChRinghead c v

/-- The read of a register of channel `c`. -/
def CReg.rd (c : Chan P) : CReg → Instr P
  | .gensel => .rdChGensel c
  | .attack => .rdChAttack c
  | .decay => .rdChDecay c
  | .sustain => .rdChSustain c
  | .release => .rdChRelease c
  | .faderate => .rdChFaderate c
  | .detune => .rdChDetune c
  | .volume => .rdChVolume c
  | .sysvol => .rdChSysvol c
  | .fadetgt => .rdChFadetgt c
  | .noteoff => .rdChNoteoff c
  | .chctrl => .rdChChctrl c
  | .schofs => .rdChSchofs c
  | .schcmd => .rdChSchcmd c
  | .ringidx => .rdChRingidx c
  | .ringdata => .rdChRingdata c
  | .logctrl => .rdChLogctrl c
  | .logcount => .rdChLogcount c
  | .logcursor => .rdChLogcursor c
  | .apptick => .rdChApptick c
  | .appcmd => .rdChAppcmd c
  | .loopfirst => .rdChLoopfirst c
  | .looplast => .rdChLooplast c
  | .loopstart => .rdChLoopstart c
  | .loopend => .rdChLoopend c
  | .logidx => .rdChLogidx c
  | .logtick => .rdChLogtick c
  | .logcmd => .rdChLogcmd c
  | .envphase => .rdChEnvphase c
  | .gain => .rdChGain c
  | .keycnt => .rdChKeycnt c
  | .notevol => .rdChNotevol c
  | .basefreq => .rdChBasefreq c
  | .bentfreq => .rdChBentfreq c
  | .lastnote => .rdChLastnote c
  | .oscpos => .rdChOscpos c
  | .lfsr => .rdChLfsr c
  | .ringhead => .rdChRinghead c

/-- A mapped register: a global one, or one of a present channel. -/
inductive Reg (P : Params := Machine.lsg) where
  | global (r : GReg)
  | channel (c : Chan P) (r : CReg)
  deriving DecidableEq, Repr

/-- Address decode (30_encoding.md R165; the two rejections are those of 47_host_ops.md R410). -/
def decodeAddr (a : BitVec 13) : Except AccessReject (Reg P) :=
  if a.getLsbD 12 then
    if h : (a.extractLsb' 8 4).toNat < P.numCh then
      match CReg.ofOffset (a.extractLsb' 0 8).toNat with
      | some r => .ok (.channel ⟨(a.extractLsb' 8 4).toNat, h⟩ r)
      | none => .error .unmapped
    else .error .absentChannel
  else
    match GReg.ofOffset (a.extractLsb' 0 12).toNat with
    | some r => .ok (.global r)
    | none => .error .unmapped

/-- The write of a mapped register. -/
def Reg.wr (v : Word) : Reg P → Instr P
  | .global r => r.wr v
  | .channel c r => r.wr c v

/-- The read of a mapped register. -/
def Reg.rd : Reg P → Instr P
  | .global r => r.rd
  | .channel c r => r.rd c

/-- The forms of access that have a meaning at all (20_memory.md R101). -/
def checkAccess (w : Width) (a : BitVec 13) : Except AccessReject Unit :=
  if w ≠ .word then .error .notAWord
  else if a.extractLsb' 0 2 ≠ 0 then .error .misaligned
  else .ok ()

/-- One host bus access (30_encoding.md R165). -/
def decodeBus : BusOp → Except AccessReject (Instr P)
  | .write w a v =>
    match checkAccess w a with
    | .error r => .error r
    | .ok _ => (decodeAddr a).map (Reg.wr v)
  | .read w a =>
    match checkAccess w a with
    | .error r => .error r
    | .ok _ => (decodeAddr a).map Reg.rd

/-- The whole decoder. -/
def decode : Encoded P → Except Reject (Instr P)
  | .command c i w => (decodeCommand c i w).mapError .word
  | .generator w => (decodeGenerator w).mapError .word
  | .bus op => (decodeBus op).mapError .access

/-! ### The encoder -/

/-- A command word from its fields, most significant bit first (30_encoding.md R140):
`E K N V P RRRRRR vvvvvvv d mmmmmm nnnnnnn`. -/
def CmdFields.word (en kon nokey : Bool) (f : CmdFields) : Word :=
  BitVec.ofBool en ++ BitVec.ofBool kon ++ BitVec.ofBool nokey ++ BitVec.ofBool f.volp ++
    BitVec.ofBool f.pbp ++ f.rsv ++ f.vol ++ BitVec.ofBool f.pbdir ++ f.pbmag ++ f.note

/-- The word of a form (30_encoding.md R145). -/
def CmdForm.word : CmdForm → Word
  | .nop kon nokey f => f.word false kon nokey
  | .keyon f => f.word true true false
  | .keyoff f => f.word true false false
  | .param kon f => f.word true kon true

/-- A generator word from its fields (30_encoding.md R160), with `GRSV = 0`. -/
def genWord (op : BitVec 4) (dst srcA srcB : BitVec 8) : Word :=
  srcB ++ srcA ++ dst ++ (0 : BitVec 4) ++ op

/-- The address of a global register (10_state.md R55). -/
def GReg.addr : GReg → BitVec 13
  | .ctrl => 0x000
  | .status => 0x004
  | .tick => 0x008
  | .rbase => 0x010
  | .rcount => 0x014
  | .rstride => 0x018
  | .rfmt => 0x01C
  | .rgo => 0x020
  | .gcmd => 0x030
  | .garg0 => 0x034
  | .garg1 => 0x038
  | .wtaddr => 0x040
  | .wtdata => 0x044
  | .hcaddr => 0x048
  | .hcdata => 0x04C
  | .ctaddr => 0x050
  | .ctdata => 0x054
  | .tapaddr => 0x058
  | .tapdata => 0x05C

/-- The offset of a channel register in its block (10_state.md R56, R57, R58). -/
def CReg.offset : CReg → BitVec 8
  | .gensel => 0x00
  | .attack => 0x04
  | .decay => 0x08
  | .sustain => 0x0C
  | .release => 0x10
  | .faderate => 0x14
  | .detune => 0x18
  | .volume => 0x1C
  | .sysvol => 0x20
  | .fadetgt => 0x24
  | .noteoff => 0x28
  | .chctrl => 0x2C
  | .schofs => 0x30
  | .schcmd => 0x34
  | .ringidx => 0x38
  | .ringdata => 0x3C
  | .logctrl => 0x40
  | .logcount => 0x44
  | .logcursor => 0x48
  | .apptick => 0x4C
  | .appcmd => 0x50
  | .loopfirst => 0x54
  | .looplast => 0x58
  | .loopstart => 0x5C
  | .loopend => 0x60
  | .logidx => 0x64
  | .logtick => 0x68
  | .logcmd => 0x6C
  | .envphase => 0x80
  | .gain => 0x84
  | .keycnt => 0x88
  | .notevol => 0x8C
  | .basefreq => 0x90
  | .bentfreq => 0x94
  | .lastnote => 0x98
  | .oscpos => 0x9C
  | .lfsr => 0xA0
  | .ringhead => 0xA4

/-- The address of a channel register, `0x1000 + c·0x100 + offset` (10_state.md R54). -/
def CReg.addr (c : Chan P) (r : CReg) : BitVec 13 :=
  (1 : BitVec 1) ++ BitVec.ofNat 4 c.val ++ r.offset

/-- A register write as a bus access. -/
def busWr (a : BitVec 13) (v : Word) : Encoded P := .bus (.write .word a v)
/-- A register read as a bus access. -/
def busRd (a : BitVec 13) : Encoded P := .bus (.read .word a)

/-- The encoder: the word, or the bus access, of an instruction. -/
def encode : Instr P → Encoded P
  | .nop c i kon nokey f => .command c i (CmdForm.nop kon nokey f).word
  | .keyon c i f => .command c i (CmdForm.keyon f).word
  | .keyoff c i f => .command c i (CmdForm.keyoff f).word
  | .param c i kon f => .command c i (CmdForm.param kon f).word
  | .genSilence dst srcA srcB => .generator (genWord 0 dst srcA srcB)
  | .genSquare50 dst srcA srcB => .generator (genWord 1 dst srcA srcB)
  | .genSquare25 dst srcA srcB => .generator (genWord 2 dst srcA srcB)
  | .genSineadd dst srcA srcB => .generator (genWord 3 dst srcA srcB)
  | .genNoiseburst dst srcA srcB => .generator (genWord 4 dst srcA srcB)
  | .genTriangle dst srcA srcB => .generator (genWord 5 dst srcA srcB)
  | .genMix dst srcA srcB => .generator (genWord 6 dst srcA srcB)
  | .genFilter dst srcA srcB => .generator (genWord 7 dst srcA srcB)
  | .wrCtrl v => busWr GReg.ctrl.addr v
  | .rdCtrl => busRd GReg.ctrl.addr
  | .wrStatus v => busWr GReg.status.addr v
  | .rdStatus => busRd GReg.status.addr
  | .wrTick v => busWr GReg.tick.addr v
  | .rdTick => busRd GReg.tick.addr
  | .wrRbase v => busWr GReg.rbase.addr v
  | .rdRbase => busRd GReg.rbase.addr
  | .wrRcount v => busWr GReg.rcount.addr v
  | .rdRcount => busRd GReg.rcount.addr
  | .wrRstride v => busWr GReg.rstride.addr v
  | .rdRstride => busRd GReg.rstride.addr
  | .wrRfmt v => busWr GReg.rfmt.addr v
  | .rdRfmt => busRd GReg.rfmt.addr
  | .wrRgo v => busWr GReg.rgo.addr v
  | .rdRgo => busRd GReg.rgo.addr
  | .wrGcmd v => busWr GReg.gcmd.addr v
  | .rdGcmd => busRd GReg.gcmd.addr
  | .wrGarg0 v => busWr GReg.garg0.addr v
  | .rdGarg0 => busRd GReg.garg0.addr
  | .wrGarg1 v => busWr GReg.garg1.addr v
  | .rdGarg1 => busRd GReg.garg1.addr
  | .wrWtaddr v => busWr GReg.wtaddr.addr v
  | .rdWtaddr => busRd GReg.wtaddr.addr
  | .wrWtdata v => busWr GReg.wtdata.addr v
  | .rdWtdata => busRd GReg.wtdata.addr
  | .wrHcaddr v => busWr GReg.hcaddr.addr v
  | .rdHcaddr => busRd GReg.hcaddr.addr
  | .wrHcdata v => busWr GReg.hcdata.addr v
  | .rdHcdata => busRd GReg.hcdata.addr
  | .wrCtaddr v => busWr GReg.ctaddr.addr v
  | .rdCtaddr => busRd GReg.ctaddr.addr
  | .wrCtdata v => busWr GReg.ctdata.addr v
  | .rdCtdata => busRd GReg.ctdata.addr
  | .wrTapaddr v => busWr GReg.tapaddr.addr v
  | .rdTapaddr => busRd GReg.tapaddr.addr
  | .wrTapdata v => busWr GReg.tapdata.addr v
  | .rdTapdata => busRd GReg.tapdata.addr
  | .wrChGensel c v => busWr (CReg.gensel.addr c) v
  | .rdChGensel c => busRd (CReg.gensel.addr c)
  | .wrChAttack c v => busWr (CReg.attack.addr c) v
  | .rdChAttack c => busRd (CReg.attack.addr c)
  | .wrChDecay c v => busWr (CReg.decay.addr c) v
  | .rdChDecay c => busRd (CReg.decay.addr c)
  | .wrChSustain c v => busWr (CReg.sustain.addr c) v
  | .rdChSustain c => busRd (CReg.sustain.addr c)
  | .wrChRelease c v => busWr (CReg.release.addr c) v
  | .rdChRelease c => busRd (CReg.release.addr c)
  | .wrChFaderate c v => busWr (CReg.faderate.addr c) v
  | .rdChFaderate c => busRd (CReg.faderate.addr c)
  | .wrChDetune c v => busWr (CReg.detune.addr c) v
  | .rdChDetune c => busRd (CReg.detune.addr c)
  | .wrChVolume c v => busWr (CReg.volume.addr c) v
  | .rdChVolume c => busRd (CReg.volume.addr c)
  | .wrChSysvol c v => busWr (CReg.sysvol.addr c) v
  | .rdChSysvol c => busRd (CReg.sysvol.addr c)
  | .wrChFadetgt c v => busWr (CReg.fadetgt.addr c) v
  | .rdChFadetgt c => busRd (CReg.fadetgt.addr c)
  | .wrChNoteoff c v => busWr (CReg.noteoff.addr c) v
  | .rdChNoteoff c => busRd (CReg.noteoff.addr c)
  | .wrChChctrl c v => busWr (CReg.chctrl.addr c) v
  | .rdChChctrl c => busRd (CReg.chctrl.addr c)
  | .wrChSchofs c v => busWr (CReg.schofs.addr c) v
  | .rdChSchofs c => busRd (CReg.schofs.addr c)
  | .wrChSchcmd c v => busWr (CReg.schcmd.addr c) v
  | .rdChSchcmd c => busRd (CReg.schcmd.addr c)
  | .wrChRingidx c v => busWr (CReg.ringidx.addr c) v
  | .rdChRingidx c => busRd (CReg.ringidx.addr c)
  | .wrChRingdata c v => busWr (CReg.ringdata.addr c) v
  | .rdChRingdata c => busRd (CReg.ringdata.addr c)
  | .wrChLogctrl c v => busWr (CReg.logctrl.addr c) v
  | .rdChLogctrl c => busRd (CReg.logctrl.addr c)
  | .wrChLogcount c v => busWr (CReg.logcount.addr c) v
  | .rdChLogcount c => busRd (CReg.logcount.addr c)
  | .wrChLogcursor c v => busWr (CReg.logcursor.addr c) v
  | .rdChLogcursor c => busRd (CReg.logcursor.addr c)
  | .wrChApptick c v => busWr (CReg.apptick.addr c) v
  | .rdChApptick c => busRd (CReg.apptick.addr c)
  | .wrChAppcmd c v => busWr (CReg.appcmd.addr c) v
  | .rdChAppcmd c => busRd (CReg.appcmd.addr c)
  | .wrChLoopfirst c v => busWr (CReg.loopfirst.addr c) v
  | .rdChLoopfirst c => busRd (CReg.loopfirst.addr c)
  | .wrChLooplast c v => busWr (CReg.looplast.addr c) v
  | .rdChLooplast c => busRd (CReg.looplast.addr c)
  | .wrChLoopstart c v => busWr (CReg.loopstart.addr c) v
  | .rdChLoopstart c => busRd (CReg.loopstart.addr c)
  | .wrChLoopend c v => busWr (CReg.loopend.addr c) v
  | .rdChLoopend c => busRd (CReg.loopend.addr c)
  | .wrChLogidx c v => busWr (CReg.logidx.addr c) v
  | .rdChLogidx c => busRd (CReg.logidx.addr c)
  | .wrChLogtick c v => busWr (CReg.logtick.addr c) v
  | .rdChLogtick c => busRd (CReg.logtick.addr c)
  | .wrChLogcmd c v => busWr (CReg.logcmd.addr c) v
  | .rdChLogcmd c => busRd (CReg.logcmd.addr c)
  | .wrChEnvphase c v => busWr (CReg.envphase.addr c) v
  | .rdChEnvphase c => busRd (CReg.envphase.addr c)
  | .wrChGain c v => busWr (CReg.gain.addr c) v
  | .rdChGain c => busRd (CReg.gain.addr c)
  | .wrChKeycnt c v => busWr (CReg.keycnt.addr c) v
  | .rdChKeycnt c => busRd (CReg.keycnt.addr c)
  | .wrChNotevol c v => busWr (CReg.notevol.addr c) v
  | .rdChNotevol c => busRd (CReg.notevol.addr c)
  | .wrChBasefreq c v => busWr (CReg.basefreq.addr c) v
  | .rdChBasefreq c => busRd (CReg.basefreq.addr c)
  | .wrChBentfreq c v => busWr (CReg.bentfreq.addr c) v
  | .rdChBentfreq c => busRd (CReg.bentfreq.addr c)
  | .wrChLastnote c v => busWr (CReg.lastnote.addr c) v
  | .rdChLastnote c => busRd (CReg.lastnote.addr c)
  | .wrChOscpos c v => busWr (CReg.oscpos.addr c) v
  | .rdChOscpos c => busRd (CReg.oscpos.addr c)
  | .wrChLfsr c v => busWr (CReg.lfsr.addr c) v
  | .rdChLfsr c => busRd (CReg.lfsr.addr c)
  | .wrChRinghead c v => busWr (CReg.ringhead.addr c) v
  | .rdChRinghead c => busRd (CReg.ringhead.addr c)

/-! ### Words as spec/opcode_table.json numbers them -/

/-- The instruction a table word stands for, as it stands in the machine (assumption log entry 11). The
table gives the three kinds of row different lengths: 8 bits (generator words: `mask 0xFF`), 13 bits in two
bytes (register operations: `mask 0x1FFF`), 32 bits (command words). A write and a read of one register have
the same table bits, so the direction is read from bit 13, the first bit above the address: 0 a write (of
data 0), 1 a read. A command word is taken for channel 0 at frame 0. -/
def tableEncoded (nbits w : Nat) : Encoded :=
  if nbits ≤ 8 then .generator (BitVec.ofNat 32 w)
  else if nbits ≤ 16 then
    if w.testBit 13 then busRd (BitVec.ofNat 13 w) else busWr (BitVec.ofNat 13 w) 0
  else .command 0 0 (BitVec.ofNat 32 w)

/-- The instruction the decoder reads from a table word; none where it rejects. -/
def decodeTableWord (nbits w : Nat) : Option Instr :=
  match decode (tableEncoded nbits w) with
  | .ok i => some i
  | .error _ => none

end Sys2Proof
end

