-- ==== Sys2Proof/Machine/State.lean ====
section
/-!
DEFINITION. Everything the spec gives the machine, as plain data (10_state.md R30 to R53), the reasons a step
can stop, and the state after power-on reset (70_reset_and_hazards.md R450, R453). A type that depends on a
parameter takes the build `P` (00_scope.md R6); written without one it is that of the LSG core.
-/

namespace Sys2Proof.Machine

open Config

/-- The envelope phase (10_state.md R35). -/
inductive Phase where
  | attack | decay | sr
  deriving DecidableEq, Repr

/-- The generator binding: a wavetable slot or live noise (10_state.md R37). -/
inductive GenSel (P : Params := lsg) where
  | slot (k : Fin P.numSlots)
  | noise
  deriving DecidableEq, Repr

/-- The result codes of `g.status` (60_exceptions.md R421); codes 6 and 7 are never written. -/
inductive Status where
  | ok | range | null | full | malformed | generic
  deriving DecidableEq, Repr

/-- A far-term log entry (10_state.md R42). -/
structure LogEntry where
  tick : Word
  cmd  : Word
  deriving DecidableEq, Repr

/-- A record of the observer stream (10_state.md R52): channel, command word, frame index. -/
structure TraceRec (P : Params := lsg) where
  chan  : Fin P.numCh
  word  : Word
  frame : Nat
  deriving DecidableEq, Repr

/-- The state of one channel (10_state.md R34 to R47, R57). A field whose range the spec bounds by a
parameter has that range as its type (assumption log entry 7); `count` is the length of `log` (entry 6). -/
structure Channel (P : Params := lsg) where
  -- pitch (R34)
  base      : Word
  bent      : Word
  lastnote  : BitVec 7
  detune    : Word
  custom    : Bool
  -- envelope (R35)
  atk       : BitVec 16
  dec       : BitVec 16
  sus       : BitVec 16
  rel       : BitVec 16
  fade      : BitVec 16
  phase     : Phase
  gain      : BitVec 16
  keycnt    : Word
  -- mixing (R36)
  nvol      : BitVec 7
  gvol      : BitVec 7
  svol      : BitVec 7
  stgt      : BitVec 7
  -- generator binding and oscillator (R37)
  gensel    : GenSel P
  pos       : Fin P.wtLen
  lfsr      : BitVec P.lfsrBits
  obs       : Bool
  -- near-term ring (R39)
  ring      : Vector Word P.ringCap
  head      : Fin P.ringCap
  -- far-term log (R42)
  log       : List LogEntry
  cursor    : Word
  bound     : Bool
  loopEn    : Bool
  loopFirst : Fin P.logCap
  loopLast  : Fin P.logCap
  loopStart : Word
  loopEnd   : Word
  -- staging and peek registers (R57)
  schofs    : Word
  ringidx   : Fin P.ringCap
  apptick   : Word
  logidx    : Fin P.logCap
  deriving DecidableEq, Repr

/-- The output memory: bytes by address, strictly rising, only bytes some render wrote. An unlisted byte has
no value (20_memory.md R104: unspecified at power-on; assumption log entry 3). -/
abbrev Memory := List Host.Cell

/-- The state of the block (10_state.md R31 to R52), and the two ends of the host bus (`pending`, `rdata`),
which are the model's own (assumption log entries 1 and 2). -/
structure State (P : Params := lsg) where
  -- global (R31)
  tick    : BitVec P.tickBits
  pause   : Bool
  status  : Status
  rbase   : Word
  rcount  : Word
  rstride : Word
  rstereo : Bool
  rbig    : Bool
  garg0   : Word
  garg1   : Word
  wtSlot  : Fin P.numSlots
  wtIdx   : Fin P.wtLen
  hcIdx   : Fin P.numHarm
  ctIdx   : Fin P.noteCount
  tapIdx  : Fin P.numTaps
  -- channels (R33)
  chans   : Vector (Channel P) P.numCh
  -- tables (R48, R49, R50)
  wt      : Vector (Vector Sample P.wtLen) P.numSlots
  ct      : Vector Word P.noteCount
  hc      : Vector Sample P.numHarm
  tap     : Vector Sample P.numTaps
  -- output memory and observer stream (R51, R52)
  out     : Memory
  trace   : List (TraceRec P)
  -- the model's own: host operations still to be performed, and the value the last read returned
  pending : List Input
  rdata   : Word
  deriving DecidableEq, Repr

/-- Faults: none. "No operation raises a fault" (60_exceptions.md R420, 93_implementation_defined.md §1), so
the type has no constructor: that the machine never faults is true by its type. Safe. -/
inductive Fault where
  deriving DecidableEq, Repr

/-- Refusals: what the model gives no meaning. -/
inductive Refusal where
  /-- Raised by an arm of `exec` for an instruction that has no meaning yet (none is left). Safe. -/
  | notModelled (mnemonic : String)
  /-- Raised by `step` for an access that is not a 32-bit word at a multiple of 4, which the spec gives no
  meaning (20_memory.md R101, 47_host_ops.md R410; assumption log entry 12). Safe. -/
  | accessWithoutMeaning (why : AccessReject)
  deriving DecidableEq, Repr

/-- The encoding of `keycnt = -1`, key off (10_state.md R35). -/
abbrev KEY_OFF : Word := 0xFFFFFFFF

/-- The channel defaults of power-on reset (70_reset_and_hazards.md R450, R453). -/
def Channel.reset (P : Params := lsg) : Channel P where
  base := 0
  bent := 0
  lastnote := 0
  detune := 0
  custom := false
  atk := BitVec.ofNat 16 P.gainMax
  dec := 0
  sus := BitVec.ofNat 16 P.gainMax
  rel := BitVec.ofNat 16 P.gainMax
  fade := 0
  phase := .sr
  gain := 0
  keycnt := KEY_OFF
  nvol := BitVec.ofNat 7 P.volMax
  gvol := BitVec.ofNat 7 P.volMax
  svol := BitVec.ofNat 7 P.volMax
  stgt := BitVec.ofNat 7 P.volMax
  gensel := .slot ⟨0, P.numSlots_pos⟩
  pos := ⟨0, P.wtLen_pos⟩
  lfsr := BitVec.ofNat P.lfsrBits P.noiseSeed
  obs := false
  ring := Vector.replicate P.ringCap 0
  head := ⟨0, P.ringCap_pos⟩
  log := []
  cursor := 0
  bound := false
  loopEn := false
  loopFirst := ⟨0, P.logCap_pos⟩
  loopLast := ⟨0, P.logCap_pos⟩
  loopStart := 0
  loopEnd := 0
  schofs := 0
  ringidx := ⟨0, P.ringCap_pos⟩
  apptick := 0
  logidx := ⟨0, P.logCap_pos⟩

/-- The wavetable RAM with every sample 0 (10_state.md R48). -/
def silentWavetables (P : Params := lsg) : Vector (Vector Sample P.wtLen) P.numSlots :=
  Vector.replicate P.numSlots (Vector.replicate P.wtLen 0)

/-- The state of build `P` after power-on reset (70_reset_and_hazards.md R450), with no host operation pending. -/
def State.atPowerOn (P : Params) : State P where
  tick := 0
  pause := false
  status := .ok
  rbase := 0
  rcount := 0
  rstride := 0
  rstereo := false
  rbig := false
  garg0 := 0
  garg1 := 0
  wtSlot := ⟨0, P.numSlots_pos⟩
  wtIdx := ⟨0, P.wtLen_pos⟩
  hcIdx := ⟨0, P.numHarm_pos⟩
  ctIdx := ⟨0, P.noteCount_pos⟩
  tapIdx := ⟨0, P.numTaps_pos⟩
  chans := Vector.replicate P.numCh (Channel.reset P)
  wt := silentWavetables P
  ct := Vector.replicate P.noteCount 0
  hc := Vector.replicate P.numHarm 0
  tap := (Vector.replicate P.numTaps 0).set 0 0x4000 P.numTaps_pos
  out := []
  trace := []
  pending := []
  rdata := 0

/-- The machine right after reset: the LSG core after power-on reset (70_reset_and_hazards.md R450). -/
def State.reset : State := State.atPowerOn lsg

end Sys2Proof.Machine
end

