-- ==== Sys2Proof/Machine/Operands.lean ====
section
/-!
DEFINITION. The operand assembly of register writes and reads (10_state.md R59, R61; 30_encoding.md R166), and the
narrowing of an exact integer where it is stored (00_scope.md R8, R12).
-/

namespace Sys2Proof.Machine

open Config

variable {P : Params}

/-- The clamp to the int16 range (46_render.md R349, 40_wavetable_bank.md R205, R211). -/
def clamp16 (v : Int) : Int := clamp v (-32768) 32767

/-- The store of an exact integer into an int16 field. -/
def toSample (v : Int) : Sample := BitVec.ofInt 16 v

/-- What a 16-bit data port stores: `sext_16(v[15:0])`, `v[31:16]` ignored (10_state.md R61). -/
def portIn (v : Word) : Sample := v.extractLsb' 0 16

/-- What a 16-bit data port reads as: the sign-extended sample (10_state.md R59). -/
def portOut (x : Sample) : Word := x.signExtend 32

/-- The range check "value below n" of an index register (10_state.md R61: against the whole word, unsigned). -/
def indexBelow (n k : Nat) : Option (Fin n) :=
  if h : k < n then some ⟨k, h⟩ else none

/-- An index that wraps, `emod(k, n)`. -/
def indexMod {n : Nat} (h : 0 < n) (k : Nat) : Fin n := ⟨k % n, Nat.mod_lt k h⟩

/-- The range check `v ≤ 0xFFFF` of the rate registers (47_host_ops.md R387). -/
def rateOf (v : Word) : Option (BitVec 16) :=
  if v.toNat ≤ 0xFFFF then some (v.setWidth 16) else none

/-- The range check `v ≤ GAIN_MAX` of SUSTAIN (47_host_ops.md R387). -/
def levelOf (P : Params) (v : Word) : Option (BitVec 16) :=
  if v.toNat ≤ P.gainMax then some (v.setWidth 16) else none

/-- The range check `v ≤ 127` of the volume registers (47_host_ops.md R389 to R391). -/
def volumeOf (P : Params) (v : Word) : Option (BitVec 7) :=
  if v.toNat ≤ P.volMax then some (v.setWidth 7) else none

/-- A generator binding from its number: a slot, or `NOISE_SEL`; none otherwise (47_host_ops.md R386,
40_wavetable_bank.md R209). -/
def GenSel.ofNat (P : Params) (k : Nat) : Option (GenSel P) :=
  if k = P.noiseSel then some .noise else (indexBelow P.numSlots k).map .slot

/-- The three fields of WTADDR, or none if one is out of range (47_host_ops.md R378). -/
def wtAddrOf (P : Params) (v : Word) : Option (Fin P.numSlots × Fin P.wtLen) :=
  if v.extractLsb' 24 8 ≠ 0 then none
  else
    match indexBelow P.numSlots (v.extractLsb' 16 8).toNat, indexBelow P.wtLen (v.extractLsb' 0 16).toNat with
    | some k, some i => some (k, i)
    | _, _ => none

/-- What WTADDR reads as: `{0, g.wt_slot, g.wt_idx}` (47_host_ops.md R378). -/
def wtAddrWord {n m : Nat} (k : Fin n) (i : Fin m) : Word :=
  (0 : BitVec 8) ++ BitVec.ofNat 8 k.val ++ BitVec.ofNat 16 i.val

/-- An index or count as a register reads it (10_state.md R59: zero-extended). -/
def natWord (k : Nat) : Word := BitVec.ofNat 32 k

end Sys2Proof.Machine
end

