-- ==== Sys2Proof/Machine/Flags.lean ====
section
/-!
DEFINITION. The numbers of the result codes, the envelope phases and the generator bindings, and the flag
words of CTRL, RFMT, CHCTRL and LOGCTRL as they read (reserved and W1 bits 0, 10_state.md R59).
-/

namespace Sys2Proof.Machine

open Config

variable {P : Params}

/-- The result codes' values (60_exceptions.md R421). -/
def Status.code : Status → BitVec 3
  | .ok => 0
  | .range => 1
  | .null => 2
  | .full => 3
  | .malformed => 4
  | .generic => 5

/-- The phases' values, `{ATTACK=0, DECAY=1, SR=2}` (10_state.md R35). -/
def Phase.code : Phase → BitVec 2
  | .attack => 0
  | .decay => 1
  | .sr => 2

/-- The generator binding's value (10_state.md R37). -/
def GenSel.code : GenSel P → BitVec 8
  | .slot k => BitVec.ofNat 8 k.val
  | .noise => BitVec.ofNat 8 P.noiseSel

/-- A word with two flags in bits 1 and 0, every other bit 0. -/
def flagWord (bit1 bit0 : Bool) : Word :=
  (0 : BitVec 30) ++ BitVec.ofBool bit1 ++ BitVec.ofBool bit0

/-- CTRL reads `{0…0, 0, g.pause}` (47_host_ops.md R370). -/
def ctrlWord (s : State P) : Word := flagWord false s.pause

/-- RFMT reads BIG in bit 1 and STEREO in bit 0 (47_host_ops.md R374). -/
def rfmtWord (s : State P) : Word := flagWord s.rbig s.rstereo

/-- CHCTRL reads `{0…0, obs, custom}` (47_host_ops.md R393). -/
def chctrlWord (ch : Channel P) : Word := flagWord ch.obs ch.custom

/-- LOGCTRL reads `{0…0, loop_en, bound}` (47_host_ops.md R395). -/
def logctrlWord (ch : Channel P) : Word := flagWord ch.loopEn ch.bound

end Sys2Proof.Machine
end

