-- ==== Sys2Proof/Machine/Ops.lean ====
section
/-!
DEFINITION. The named operations over the state that the meanings share: how an operation ends (`done`,
`fail`: result codes stand in the place of exceptions on this hardware, 60_exceptions.md R420, R425), access
to a channel, range-checked stores, the value a read returns, the output memory, INIT and power-on reset.
-/

namespace Sys2Proof.Machine

open Config

variable {P : Params}

/-- What a meaning answers. -/
abbrev Result (P : Params := lsg) := Host.Outcome (State P) Fault Refusal

/-! ### How an operation ends (00_scope.md R11, 47_host_ops.md R400, 60_exceptions.md R420) -/

/-- `done`: the operation ends with `g.status <- OK`. -/
def done (s : State P) : State P := { s with status := .ok }

/-- `fail(code)`: the one way an error is reported. It writes `code` to `g.status` and changes nothing else;
no control is transferred and nothing is saved (60_exceptions.md R420, R425). -/
def fail (code : Status) (s : State P) : State P := { s with status := code }

/-- A write that makes no check: its effect, then `done`. -/
def complete (s : State P) : Result P := .next (done s)

/-- A write that a check refuses. -/
def reject (code : Status) (s : State P) : Result P := .next (fail code s)

/-- A write with one range check: the checked value is stored, or `fail(ERR_RANGE)` (10_state.md R61). -/
def storeRanged {α : Type} (o : Option α) (f : α → State P → State P) (s : State P) : Result P :=
  match o with
  | some a => complete (f a s)
  | none => reject .range s

/-- A read returns a value and writes neither `g.status` nor anything else (47_host_ops.md R406). -/
def answer (v : Word) (s : State P) : Result P := .next { s with rdata := v }

/-! ### Channels (10_state.md R33) -/

/-- The state of channel `c`. -/
def State.ch (s : State P) (c : Fin P.numCh) : Channel P := s.chans[c]

/-- The state with channel `c` replaced. -/
def State.setCh (s : State P) (c : Fin P.numCh) (x : Channel P) : State P := { s with chans := s.chans.set c x }

/-- The state with channel `c` changed by `f`. -/
def State.modCh (s : State P) (c : Fin P.numCh) (f : Channel P → Channel P) : State P := s.setCh c (f (s.ch c))

/-- The state with every channel changed by `f`, each from its own state alone. -/
def State.mapCh (s : State P) (f : Channel P → Channel P) : State P := { s with chans := s.chans.map f }

/-- `for c in 0 .. NUM_CH-1`, in that order. -/
def forChans (f : Fin P.numCh → State P → State P) (s : State P) : State P :=
  (List.finRange P.numCh).foldl (fun s c => f c s) s

/-- A range-checked store into channel `c`. -/
def chStoreRanged {α : Type} (c : Fin P.numCh) (o : Option α) (f : α → Channel P → Channel P) (s : State P) : Result P :=
  storeRanged o (fun a s => s.modCh c (f a)) s

/-- An unchecked store into channel `c`. -/
def chStore (c : Fin P.numCh) (f : Channel P → Channel P) (s : State P) : Result P := complete (s.modCh c f)

/-- The next index of an auto-incrementing pointer, wrapping (47_host_ops.md R379, R381, R383, R385). -/
def nextIdx {n : Nat} (k : Fin n) : Fin n := indexMod k.pos (k.val + 1)

/-! ### The output memory (20_memory.md R103 to R107) -/

/-- The byte at `a`, if a render has written one. -/
def Memory.read (m : Memory) (a : Nat) : Option Byte :=
  match m with
  | [] => none
  | (k, b) :: rest => if k = a then some b else Memory.read rest a

/-- `OutWrite(a, b)`, keeping the addresses strictly rising. -/
def Memory.write (m : Memory) (a : Nat) (b : Byte) : Memory :=
  match m with
  | [] => [(a, b)]
  | (k, x) :: rest =>
    if a < k then (a, b) :: (k, x) :: rest
    else if a = k then (a, b) :: rest
    else (k, x) :: Memory.write rest a b

/-- The canonical form: addresses strictly rising. An unlisted address has no value, so no listed byte can
equal what it would read as. -/
def Memory.wf (m : Memory) : Bool := decide (m.Pairwise fun x y => x.1 < y.1)

/-- `OutWrite(a, b)` on the state (00_scope.md R11). -/
def outWrite (a : Nat) (b : Byte) (s : State P) : State P := { s with out := Memory.write s.out a b }

/-- A 16-bit sample at addresses `a` and `a+1` in the byte order of the render (20_memory.md R105). -/
def writeSample (a : Nat) (v : Sample) (s : State P) : State P :=
  let lo : Byte := v.extractLsb' 0 8
  let hi : Byte := v.extractLsb' 8 8
  if s.rbig then outWrite (a + 1) lo (outWrite a hi s) else outWrite (a + 1) hi (outWrite a lo s)

/-! ### INIT, power-on reset, accesses that name no register -/

/-- What INIT leaves of a channel (47_host_ops.md R371): the log, its cursor, the loop region and the staging
registers; every other field takes its default (70_reset_and_hazards.md R452, R453). -/
def Channel.afterInit (ch : Channel P) : Channel P :=
  { Channel.reset P with
    log := ch.log
    cursor := ch.cursor
    loopEn := ch.loopEn
    loopFirst := ch.loopFirst
    loopLast := ch.loopLast
    loopStart := ch.loopStart
    loopEnd := ch.loopEnd
    schofs := ch.schofs
    ringidx := ch.ringidx
    apptick := ch.apptick
    logidx := ch.logidx }

/-- INIT (47_host_ops.md R371). -/
def initBlock (s : State P) : State P :=
  { s with tick := 0, wt := silentWavetables P, chans := s.chans.map Channel.afterInit }

/-- The reset input (70_reset_and_hazards.md R450): every field at its power-on value, the output memory's
contents again unspecified; the host's remaining operations stay (assumption log entry 4). -/
def powerOn (rest : List Input) : State P := { State.atPowerOn P with pending := rest }

/-- An access that decodes to no instruction. A word access to an unmapped address has an effect
(47_host_ops.md R410): a write is refused with ERR_RANGE (absent channel block) or ERR_GENERIC, a read
returns 0. An access that is not a 32-bit word at a multiple of 4 has no meaning (20_memory.md R101). -/
def rejectAccess (op : BusOp) (why : AccessReject) (s : State P) : Result P :=
  match why with
  | .absentChannel =>
    match op with
    | .write _ _ _ => reject .range s
    | .read _ _ => answer 0 s
  | .unmapped =>
    match op with
    | .write _ _ _ => reject .generic s
    | .read _ _ => answer 0 s
  | .misaligned => .refused (.accessWithoutMeaning why)
  | .notAWord => .refused (.accessWithoutMeaning why)

end Sys2Proof.Machine
end

