-- ==== Sys2Proof/Machine/Ring.lean ====
section
/-!
DEFINITION. The near-term command ring of a channel: consumption and the truncating write
(44_ring.md R300 to R307). These two are its only operations (R305).
-/

namespace Sys2Proof.Machine

open Config

variable {P : Params}

/-- The slot "at offset j" from the head, `ring[c][emod(head + j, RING_CAP)]` (10_state.md R41). -/
def Channel.slotAt (ch : Channel P) (j : Nat) : Word := ch.ring[indexMod P.ringCap_pos (ch.head.val + j)]

/-- `consume(c)`: the word at the head; the slot cleared and the head advanced (44_ring.md R300). -/
def Channel.consume (ch : Channel P) : Word × Channel P :=
  (ch.ring[ch.head], { ch with ring := ch.ring.set ch.head 0, head := nextIdx ch.head })

/-- The offset of array index `j` from the head (10_state.md R41). -/
def Channel.ringOffset (ch : Channel P) (j : Fin P.ringCap) : Nat :=
  (j.val + P.ringCap - ch.head.val) % P.ringCap

/-- `scheduleAndTruncate(c, k, w)` for `k < RING_CAP`: the slot at offset `k` takes `w`, every slot at a larger
offset is cleared, every slot at a smaller offset stays (44_ring.md R301, R302). -/
def Channel.scheduleAndTruncate (k : Nat) (w : Word) (ch : Channel P) : Channel P :=
  { ch with
    ring := Vector.ofFn fun j =>
      if ch.ringOffset j < k then ch.ring[j] else if ch.ringOffset j = k then w else 0 }

end Sys2Proof.Machine
end

