-- ==== Sys2Proof/Machine/Log.lean ====
section
/-!
DEFINITION. The far-term command log of a channel and the lookahead fill (45_log_fill.md R315 to R327).
-/

namespace Sys2Proof.Machine

open Config

variable {P : Params}

/-- The value at which the cursor saturates (10_state.md R46). -/
def cursorMax : Nat := 2 ^ 32 - 1

/-- The loop region is active iff it is enabled, `F ≤ L` and `S < E` (45_log_fill.md R317). -/
def Channel.loopActive (ch : Channel P) : Bool :=
  ch.loopEn && decide (ch.loopFirst.val ≤ ch.loopLast.val) && decide (ch.loopStart.toNat < ch.loopEnd.toNat)

/-- The number of entries of the loop region, `L − F + 1`. -/
def Channel.loopLen (ch : Channel P) : Nat := ch.loopLast.val - ch.loopFirst.val + 1

/-- The cursor value `p` stands in the loop region (45_log_fill.md R318). -/
def Channel.inLoop (ch : Channel P) (p : Nat) : Bool := ch.loopActive && decide (ch.loopFirst.val ≤ p)

/-- The effective index `e` of a cursor value `p` (45_log_fill.md R318). -/
def Channel.effIndex (ch : Channel P) (p : Nat) : Nat :=
  if ch.inLoop p then ch.loopFirst.val + (p - ch.loopFirst.val) % ch.loopLen else p

/-- The tick offset of a cursor value `p`: wrap count times loop span `E − S` (45_log_fill.md R318). -/
def Channel.effShift (ch : Channel P) (p : Nat) : Nat :=
  if ch.inLoop p then
    (p - ch.loopFirst.val) / ch.loopLen * (ch.loopEnd.toNat - ch.loopStart.toNat)
  else 0

/-- The end of the window of a fill at `cur`, exact (45_log_fill.md R316). -/
def windowEnd (P : Params) (cur : Nat) : Nat := cur + P.ringCap * P.fi

/-- One examination of the fill (45_log_fill.md R319): none where it stops, else the channel with the entry
placed (if its logical tick is not late) and the cursor advanced. -/
def Channel.fillOnce (cur : Nat) (ch : Channel P) : Option (Channel P) :=
  let p := ch.cursor.toNat
  if p = cursorMax then none
  else
    match ch.log[ch.effIndex p]? with
    | none => none
    | some entry =>
      let t := entry.tick.toNat + ch.effShift p
      if windowEnd P cur ≤ t then none
      else
        let placed := if cur ≤ t then ch.scheduleAndTruncate ((t - cur) / P.fi) entry.cmd else ch
        some { placed with cursor := ch.cursor + 1 }

/-- At most `n` advances of the cursor (45_log_fill.md R325). -/
def Channel.fillUpTo (cur : Nat) : Nat → Channel P → Channel P
  | 0, ch => ch
  | n + 1, ch =>
    match ch.fillOnce cur with
    | none => ch
    | some ch' => Channel.fillUpTo cur n ch'

/-- `fill(c, cur)` (45_log_fill.md R319): nothing for an unbound log, else at most `SCAN_LIMIT` advances. -/
def Channel.fill (cur : Nat) (ch : Channel P) : Channel P :=
  if ch.bound then Channel.fillUpTo cur P.scanLimit ch else ch

end Sys2Proof.Machine
end

