-- ==== Sys2Proof/Machine/Envelope.lean ====
section
/-!
DEFINITION. The envelope state machine, forced note-off and the system-volume fade of a channel
(42_envelope.md R250 to R259).
-/

namespace Sys2Proof.Machine

open Config

variable {P : Params}

/-- Key off is `keycnt = −1` (10_state.md R35). -/
def Channel.keyIsOff (ch : Channel P) : Bool := ch.keycnt == KEY_OFF

/-- Attack (42_envelope.md R251). -/
def Channel.attackStep (ch : Channel P) : Channel P :=
  if ch.keyIsOff then { ch with phase := .sr }
  else
    let g := ch.gain.toNat + ch.atk.toNat
    if P.gainMax ≤ g then { ch with gain := BitVec.ofNat 16 P.gainMax, phase := .decay }
    else { ch with gain := BitVec.ofNat 16 g }

/-- Decay (42_envelope.md R252). -/
def Channel.decayStep (ch : Channel P) : Channel P :=
  if ch.keyIsOff then { ch with phase := .sr }
  else
    let g : Int := max ((ch.gain.toNat : Int) - ch.dec.toNat) ch.sus.toNat
    if g = ch.sus.toNat then { ch with gain := BitVec.ofInt 16 g, phase := .sr, keycnt := 1 }
    else { ch with gain := BitVec.ofInt 16 g }

/-- Sustain/Release with the key held (42_envelope.md R253). -/
def Channel.heldStep (ch : Channel P) : Channel P :=
  let v : Int := ch.sus.toNat - ch.keycnt.toInt * ch.fade.toNat
  if v < 0 then { ch with gain := BitVec.ofNat 16 P.gainSnapFloor, keycnt := KEY_OFF }
  else { ch with gain := BitVec.ofInt 16 v, keycnt := BitVec.ofInt 32 (min (ch.keycnt.toInt + 1) (2 ^ 31 - 1)) }

/-- Sustain/Release with the key off (42_envelope.md R254). -/
def Channel.releasedStep (ch : Channel P) : Channel P :=
  if 0 < ch.gain.toNat then
    if ch.sus.toNat < ch.gain.toNat then
      { ch with gain := BitVec.ofInt 16 (max ((ch.gain.toNat : Int) - ch.dec.toNat) 0) }
    else
      { ch with gain := BitVec.ofInt 16 (max ((ch.gain.toNat : Int) - ch.rel.toNat) 0) }
  else ch

/-- `stepEnvelope(c)` (42_envelope.md R250). In SR the key is held iff `keycnt ≥ 0`; a negative counter other
than −1 is reached by no run (10_state.md R53) and counts as key off (assumption log entry 8). -/
def Channel.stepEnvelope (ch : Channel P) : Channel P :=
  match ch.phase with
  | .attack => ch.attackStep
  | .decay => ch.decayStep
  | .sr => if 0 ≤ ch.keycnt.toInt then ch.heldStep else ch.releasedStep

/-- `forceNoteOff(c)` (42_envelope.md R257). -/
def Channel.forceNoteOff (ch : Channel P) : Channel P :=
  { ch with gain := 0, keycnt := KEY_OFF, phase := .sr }

/-- `fadeStep(c)` (42_envelope.md R259). -/
def Channel.fadeStep (ch : Channel P) : Channel P :=
  if ch.svol.toNat < ch.stgt.toNat then { ch with svol := ch.svol + 1 }
  else if ch.stgt.toNat < ch.svol.toNat then { ch with svol := ch.svol - 1 }
  else ch

end Sys2Proof.Machine
end

