-- ==== Sys2Proof/Machine/Oscillator.lean ====
section
/-!
DEFINITION. The note frequencies and the sample path of a channel: phase accumulator, sample fetch and live noise,
gain multiplier (43_oscillator_gain.md R272 to R286).
-/

namespace Sys2Proof.Machine

open Config

variable {P : Params}

/-! ### Note frequencies -/

/-- `NOTE_FREQ(n)` of a 12-entry table as an exact integer, with the observed special case of note 1
(43_oscillator_gain.md R272). -/
def noteFreq (base12 : Vector Nat 12) (n : Nat) : Int :=
  let entry : Int := base12[n % 12]
  let k := n / 12
  if n = 1 then tdiv base12[1] 40
  else if k = 0 then tdiv entry 4
  else if k = 1 then tdiv entry 2
  else entry * 2 ^ (k - 2)

/-- `NOTE_FREQ(n)` as the uint32 it is stored as. -/
def standardFreq (P : Params) (n : BitVec 7) : Word := BitVec.ofInt 32 (noteFreq P.base12 n.toNat)

/-! ### Noise values -/

/-- The noise register after 1, 2, …, `n` steps of `step` from `r`, in that order. -/
def lfsrRun {w : Nat} (step : BitVec w → BitVec w) : Nat → BitVec w → List (BitVec w)
  | 0, _ => []
  | n + 1, r => step r :: lfsrRun step n (step r)

/-- The value a noise register stands for: `(r[0] = 0) ? A : −A` (43_oscillator_gain.md R280,
40_wavetable_bank.md R207, R209). -/
def noiseValue {w : Nat} (amp : Int) (r : BitVec w) : Int := if r.getLsbD 0 then -amp else amp

/-! ### The sample path -/

/-- The phase step (43_oscillator_gain.md R275). -/
def Channel.phaseStep (ch : Channel P) : Int :=
  rnd (((ch.bent.toNat : Int) + ch.detune.toInt) * P.wtLen) (P.fS * 2 ^ P.freqFrac)

/-- `advancePhase(c)` (43_oscillator_gain.md R276). -/
def Channel.advancePhase (ch : Channel P) : Channel P :=
  { ch with pos := indexMod P.wtLen_pos (emod (ch.pos.val + ch.phaseStep) P.wtLen).toNat }

/-- The step of the noise register, on a noise channel only (43_oscillator_gain.md R280, R282). -/
def Channel.stepNoise (ch : Channel P) : Channel P :=
  match ch.gensel with
  | .noise => { ch with lfsr := P.lfsrStep ch.lfsr }
  | .slot _ => ch

/-- The raw sample, once position and noise register have advanced (43_oscillator_gain.md R280). -/
def Channel.sample (wt : Vector (Vector Sample P.wtLen) P.numSlots) (ch : Channel P) : Int :=
  match ch.gensel with
  | .noise => noiseValue P.noiseAmp ch.lfsr
  | .slot k => (wt[k][ch.pos]).toInt

/-- The gain multiplier and the volume scaling (43_oscillator_gain.md R284, R285). -/
def Channel.scale (ch : Channel P) (s : Int) : Int :=
  let g1 := tdiv (s * ch.gain.toNat) P.gainMax
  let g2 := tdiv (g1 * ch.nvol.toNat * ch.gvol.toNat) (P.volMax * P.volMax)
  tdiv (g2 * ch.svol.toNat) P.volMax

/-- A channel's state changes of one frame, in the order of 43_oscillator_gain.md R286. -/
def Channel.frameStep (ch : Channel P) : Channel P := ch.stepEnvelope.advancePhase.stepNoise

/-- A channel's contribution to the mix, after its state changes of the frame (43_oscillator_gain.md R286). -/
def Channel.contrib (wt : Vector (Vector Sample P.wtLen) P.numSlots) (ch : Channel P) : Int :=
  ch.scale (ch.sample wt)

end Sys2Proof.Machine
end

