-- ==== Sys2Proof/Machine/Command.lean ====
section
/-!
DEFINITION. Command application (41_command_apply.md R230 to R238) and the meanings of the four command words
NOP, KEYON, KEYOFF, PARAM (R240 to R243). Each instruction is the application of its word to channel `c` at
frame `i`; the render applies a consumed ring word by the same operations (assumption log entry 10).
-/

namespace Sys2Proof.Machine

open Config

variable {P : Params}

/-- `notefreq(c, n)`: the custom table where the channel selects it, else the standard one
(43_oscillator_gain.md R273). -/
def Channel.resolveNote (ct : Vector Word P.noteCount) (ch : Channel P) (n : BitVec 7) : Word :=
  if ch.custom then ct[indexMod P.noteCount_pos n.toNat] else standardFreq P n

/-- Step 2, key-on (41_command_apply.md R232). -/
def Channel.keyOn (ch : Channel P) : Channel P := { ch with keycnt := 0, phase := .attack }

/-- Step 2, key-off (41_command_apply.md R232). -/
def Channel.keyOff (ch : Channel P) : Channel P := { ch with keycnt := KEY_OFF }

/-- Step 3 (41_command_apply.md R233). -/
def Channel.applyVolume (f : CmdFields) (ch : Channel P) : Channel P :=
  if f.volp then { ch with nvol := f.vol } else ch

/-- Step 4 (41_command_apply.md R234). -/
def Channel.applyNote (ct : Vector Word P.noteCount) (f : CmdFields) (ch : Channel P) : Channel P :=
  if f.note ≠ 0 then
    { ch with base := ch.resolveNote ct f.note, bent := ch.resolveNote ct f.note, lastnote := f.note }
  else ch

/-- The target note of a bend, two semitones up or down and clamped to 0 … 127 (41_command_apply.md R235). -/
def Channel.bendTarget (f : CmdFields) (ch : Channel P) : BitVec 7 :=
  if f.pbdir then BitVec.ofNat 7 (ch.lastnote.toNat - 2) else BitVec.ofNat 7 (min (ch.lastnote.toNat + 2) 127)

/-- Step 5 (41_command_apply.md R235). -/
def Channel.applyBend (ct : Vector Word P.noteCount) (f : CmdFields) (ch : Channel P) : Channel P :=
  if f.pbp then
    let tf := ch.resolveNote ct (ch.bendTarget f)
    { ch with
      bent := BitVec.ofInt 32
        (ch.base.toNat + tdiv (((tf.toNat : Int) - ch.base.toNat) * f.pbmag.toNat) P.bendMax) }
  else ch

/-- Steps 3 to 5, in order (41_command_apply.md R230, R236). -/
def Channel.applyParams (ct : Vector Word P.noteCount) (f : CmdFields) (ch : Channel P) : Channel P :=
  ((ch.applyVolume f).applyNote ct f).applyBend ct f

/-- Step 6: `trace(c, w, i)` if the channel's observer is enabled (41_command_apply.md R237, 10_state.md R52). -/
def observe (c : Fin P.numCh) (i : Nat) (w : Word) (s : State P) : State P :=
  if (s.ch c).obs then { s with trace := s.trace ++ [⟨c, w, i⟩] } else s

/-- `KEYON` applied (41_command_apply.md R241). -/
def applyKeyon (c : Fin P.numCh) (i : Nat) (f : CmdFields) (s : State P) : State P :=
  observe c i (CmdForm.keyon f).word (s.modCh c fun ch => ch.keyOn.applyParams s.ct f)

/-- `KEYOFF` applied (41_command_apply.md R242). -/
def applyKeyoff (c : Fin P.numCh) (i : Nat) (f : CmdFields) (s : State P) : State P :=
  observe c i (CmdForm.keyoff f).word (s.modCh c fun ch => ch.keyOff.applyParams s.ct f)

/-- `PARAM` applied (41_command_apply.md R243). -/
def applyParam (c : Fin P.numCh) (i : Nat) (kon : Bool) (f : CmdFields) (s : State P) : State P :=
  observe c i (CmdForm.param kon f).word (s.modCh c fun ch => ch.applyParams s.ct f)

/-- `apply(c, w, i)` (41_command_apply.md R230): the form of the word decides (30_encoding.md R145). A word
with `RSV ≠ 0` stands in no ring that a run reaches (R143); its other fields are applied (assumption log
entry 9). -/
def applyWord (c : Fin P.numCh) (i : Nat) (w : Word) (s : State P) : State P :=
  match formOf w with
  | .nop _ _ _ => s
  | .keyon f => applyKeyon c i f s
  | .keyoff f => applyKeyoff c i f s
  | .param kon f => applyParam c i kon f s

/-- `NOP` (41_command_apply.md R240): nothing. -/
def execNop (_c : Fin P.numCh) (_i : Nat) (_kon _nokey : Bool) (_f : CmdFields) (s : State P) : Result P := .next s

/-- `KEYON` (41_command_apply.md R241). -/
def execKeyon (c : Fin P.numCh) (i : Nat) (f : CmdFields) (s : State P) : Result P := .next (applyKeyon c i f s)

/-- `KEYOFF` (41_command_apply.md R242). -/
def execKeyoff (c : Fin P.numCh) (i : Nat) (f : CmdFields) (s : State P) : Result P := .next (applyKeyoff c i f s)

/-- `PARAM` (41_command_apply.md R243). -/
def execParam (c : Fin P.numCh) (i : Nat) (kon : Bool) (f : CmdFields) (s : State P) : Result P :=
  .next (applyParam c i kon f s)

end Sys2Proof.Machine
end

