-- ==== Sys2Proof/Machine/Render.lean ====
section
/-!
DEFINITION. The render engine, mixer and saturator (46_render.md R340 to R356). The render registers are read
where they are used: no rule of a render writes them (R353), so that is reading them once at the start (R340).
-/

namespace Sys2Proof.Machine

open Config

variable {P : Params}

/-- `fs = st ? 4 : 2` bytes. -/
def frameSize (s : State P) : Nat := if s.rstereo then 4 else 2

/-- The address of frame `i` (46_render.md R350). -/
def frameAddr (s : State P) (i : Nat) : Nat := s.rbase.toNat + i * s.rstride.toNat

/-- The output write of frame `i` (46_render.md R351). -/
def writeFrame (i : Nat) (v : Sample) (s : State P) : State P :=
  let a := frameAddr s i
  if s.rstereo then writeSample (a + 2) v (writeSample a v s) else writeSample a v s

/-- The fill phase (46_render.md R344). A fill touches its own channel alone (45_log_fill.md R323), so the
channels' order does not show. -/
def fillAll (s : State P) : State P := s.mapCh (Channel.fill s.tick.toNat)

/-- The consumption step of one channel: consume, apply, fade (46_render.md R345). -/
def consumeStep (i : Nat) (c : Fin P.numCh) (s : State P) : State P :=
  let (w, ch) := (s.ch c).consume
  (applyWord c i w (s.setCh c ch)).modCh c Channel.fadeStep

/-- A tick on which the rings are consumed (46_render.md R345). -/
def consumptionTick (s : State P) : Bool := s.tick.toNat % P.fi == 0

/-- The consumption step of a frame, channel by channel (46_render.md R345). -/
def consumeAll (i : Nat) (s : State P) : State P :=
  if consumptionTick s then forChans (consumeStep i) s else s

/-- The state changes of the sample step (46_render.md R346): each channel from its own state alone. -/
def stepAll (s : State P) : State P := s.mapCh Channel.frameStep

/-- The mixer: the exact sum of the contributions (46_render.md R347). -/
def mix (s : State P) : Int := ((List.finRange P.numCh).map fun c => (s.ch c).contrib s.wt).sum

/-- The tick advance, modulo 2^32 (46_render.md R348). -/
def advanceTick (s : State P) : State P := { s with tick := s.tick + 1 }

/-- One frame: consumption step, sample step, mix, saturate, write, tick (46_render.md R345 to R351). -/
def renderFrame (i : Nat) (s : State P) : State P :=
  let s := stepAll (consumeAll i s)
  advanceTick (writeFrame i (toSample (clamp16 (mix s))) s)

/-- `n` frames from frame `i` on. -/
def renderFrames : Nat → Nat → State P → State P
  | 0, _, s => s
  | n + 1, i, s => renderFrames n (i + 1) (renderFrame i s)

/-- `n` silent frames from frame `i` on (46_render.md R342). -/
def silentFrames : Nat → Nat → State P → State P
  | 0, _, s => s
  | n + 1, i, s => silentFrames n (i + 1) (writeFrame i 0 s)

/-- `render()` (46_render.md R340): the checks of R341 in order, the pause test of R342, the fill, the frames. -/
def render (s : State P) : Result P :=
  let n := s.rcount.toNat
  if n = 0 then .next s
  else if s.rbase = 0 then reject .null s
  else if s.rstride.toNat < frameSize s then reject .malformed s
  else if P.outBytes < s.rbase.toNat + (n - 1) * s.rstride.toNat + frameSize s then reject .range s
  else if s.pause then complete (silentFrames n 0 s)
  else complete (renderFrames n 0 (fillAll s))

end Sys2Proof.Machine
end

