-- ==== Sys2Proof/Machine/Generator.lean ====
section
/-!
DEFINITION. The generator operations (40_wavetable_bank.md R200 to R211) and the dispatch of a generator word
written to GCMD (47_host_ops.md R376). `A` is `g.garg1`, `L` is `WT_LEN`.
-/

namespace Sys2Proof.Machine

open Config

variable {P : Params}

/-- The checks that follow the word's own, then the write of all `L` samples of slot `dst`
(40_wavetable_bank.md R200): `DST ≥ NUM_SLOTS` and a failed argument check are both `ERR_RANGE`. `wave` is
computed from the state before the operation (R210). -/
def generate (dst : BitVec 8) (argsOk : Bool) (wave : Fin P.wtLen → Sample) (s : State P) : Result P :=
  match indexBelow P.numSlots dst.toNat with
  | none => reject .range s
  | some d => if argsOk then complete { s with wt := s.wt.set d (Vector.ofFn wave) } else reject .range s

/-- The check `A ≤ 32767`, which is also SINEADD's check of its headroom. -/
def amplitudeOk (s : State P) : Bool := decide (s.garg1.toNat ≤ 32767)

/-- `A` as an exact integer. -/
def amplitude (s : State P) : Int := s.garg1.toNat

/-- A square wave high for the first `high` samples (40_wavetable_bank.md R202, R203). -/
def squareAt (high : Nat) (a : Int) (i : Nat) : Int := if i < high then a else -a

/-- The triangle's sample `i` (40_wavetable_bank.md R204). -/
def triangleAt (P : Params) (a : Int) (i : Nat) : Int :=
  let q := P.wtLen / 4
  let r := fun k : Nat => tdiv (a * k) q
  if i < q then r i
  else if i < 2 * q then r (2 * q - i)
  else if i < 3 * q then -r (i - 2 * q)
  else -r (4 * q - i)

/-- The sum over the first `n` harmonics at sample `i`: `HC[h−1] · SIN_ROM(emod(h·i, L))`, `h = 1 … n`
(40_wavetable_bank.md R205). -/
def harmonicSum (P : Params) (hc : Vector Sample P.numHarm) (n i : Nat) : Int :=
  ((List.finRange P.numHarm).map fun k =>
    if k.val < n then (hc[k]).toInt * P.sinRom ((k.val + 1) * i % P.wtLen) else 0).sum

/-- The generation register at step `k` (after `k + 1` steps from `NOISE_SEED`), `k < WT_LEN`
(40_wavetable_bank.md R207, R208, R209). -/
def genRegisters (P : Params) : Array (BitVec P.lfsrBits) :=
  (lfsrRun P.lfsrStep P.wtLen (BitVec.ofNat P.lfsrBits P.noiseSeed)).toArray

/-- The noise value at step `k` of the generation register. -/
def genNoise (regs : Array (BitVec P.lfsrBits)) (a : Int) (k : Nat) : Int :=
  noiseValue a (regs.getD k 0)

/-- The input of MIX at sample `i`: the virtual noise input or the slot's old sample (40_wavetable_bank.md
R209). -/
def mixInput (wt : Vector (Vector Sample P.wtLen) P.numSlots) (src : GenSel P) (noise : Int) (i : Fin P.wtLen) : Int :=
  match src with
  | .noise => noise
  | .slot k => (wt[k][i]).toInt

/-- The filter's sum at sample `i`: `TAP[j] · old[emod(i + j·FILTER_STRIDE, L)]` (40_wavetable_bank.md R211). -/
def filterSum (P : Params) (tap : Vector Sample P.numTaps) (old : Vector Sample P.wtLen) (i : Nat) : Int :=
  ((List.finRange P.numTaps).map fun j =>
    (tap[j]).toInt * (old[indexMod P.wtLen_pos (i + j.val * P.filterStride)]).toInt).sum

/-- The slot a filter works on, as it is before the operation; a slot number that is refused anyway reads
as silence. -/
def slotBefore (dst : BitVec 8) (s : State P) : Vector Sample P.wtLen :=
  match indexBelow P.numSlots dst.toNat with
  | some d => s.wt[d]
  | none => Vector.replicate P.wtLen 0

/-- `SILENCE` (40_wavetable_bank.md R201). -/
def execGenSilence (dst _srcA _srcB : BitVec 8) (s : State P) : Result P :=
  generate dst true (fun _ => 0) s

/-- `SQUARE50` (40_wavetable_bank.md R202). -/
def execGenSquare50 (dst _srcA _srcB : BitVec 8) (s : State P) : Result P :=
  generate dst (amplitudeOk s) (fun i => toSample (squareAt (P.wtLen / 2) (amplitude s) i.val)) s

/-- `SQUARE25` (40_wavetable_bank.md R203). -/
def execGenSquare25 (dst _srcA _srcB : BitVec 8) (s : State P) : Result P :=
  generate dst (amplitudeOk s) (fun i => toSample (squareAt (P.wtLen / 4) (amplitude s) i.val)) s

/-- `SINEADD` (40_wavetable_bank.md R205). -/
def execGenSineadd (dst _srcA _srcB : BitVec 8) (s : State P) : Result P :=
  let n := s.garg0.toNat
  generate dst (decide (1 ≤ n ∧ n ≤ P.numHarm) && amplitudeOk s)
    (fun i => toSample (clamp16 (tdiv (amplitude s * harmonicSum P s.hc n i.val) (2 ^ 30)))) s

/-- `NOISEBURST` (40_wavetable_bank.md R207): one register value for each block of `B = g.garg0` samples. -/
def execGenNoiseburst (dst _srcA _srcB : BitVec 8) (s : State P) : Result P :=
  let b := s.garg0.toNat
  let regs := genRegisters P
  generate dst (decide (1 ≤ b ∧ b ≤ P.wtLen) && amplitudeOk s)
    (fun i => toSample (genNoise regs (amplitude s) (i.val / b))) s

/-- `TRIANGLE` (40_wavetable_bank.md R204). -/
def execGenTriangle (dst _srcA _srcB : BitVec 8) (s : State P) : Result P :=
  generate dst (amplitudeOk s) (fun i => toSample (triangleAt P (amplitude s) i.val)) s

/-- `MIX` (40_wavetable_bank.md R209): the register steps once per sample index. -/
def execGenMix (dst srcA srcB : BitVec 8) (s : State P) : Result P :=
  let regs := genRegisters P
  match GenSel.ofNat P srcA.toNat, GenSel.ofNat P srcB.toNat with
  | some a, some b =>
    generate dst (amplitudeOk s)
      (fun i =>
        let noise := genNoise regs (amplitude s) i.val
        toSample (tdiv (mixInput s.wt a noise i + mixInput s.wt b noise i) 2)) s
  | _, _ => reject .range s

/-- `FILTER` (40_wavetable_bank.md R211). -/
def execGenFilter (dst _srcA _srcB : BitVec 8) (s : State P) : Result P :=
  let old := slotBefore dst s
  generate dst true (fun i => toSample (clamp16 (tdiv (filterSum P s.tap old i.val) 16384))) s

/-- A generator word written to GCMD (47_host_ops.md R376; 40_wavetable_bank.md R200): a word with `GRSV ≠ 0` or
`OP ≥ 8` is malformed (30_encoding.md R162). -/
def runGenerator (v : Word) (s : State P) : Result P :=
  if genRsv v ≠ 0 then reject .malformed s
  else
    match (genOp v).toNat with
    | 0 => execGenSilence (genDst v) (genSrcA v) (genSrcB v) s
    | 1 => execGenSquare50 (genDst v) (genSrcA v) (genSrcB v) s
    | 2 => execGenSquare25 (genDst v) (genSrcA v) (genSrcB v) s
    | 3 => execGenSineadd (genDst v) (genSrcA v) (genSrcB v) s
    | 4 => execGenNoiseburst (genDst v) (genSrcA v) (genSrcB v) s
    | 5 => execGenTriangle (genDst v) (genSrcA v) (genSrcB v) s
    | 6 => execGenMix (genDst v) (genSrcA v) (genSrcB v) s
    | 7 => execGenFilter (genDst v) (genSrcA v) (genSrcB v) s
    | _ => reject .malformed s

end Sys2Proof.Machine
end

