-- ==== Sys2Proof/Machine/Global.lean ====
section
/-!
DEFINITION. The meanings of the global registers CTRL to GARG1 (47_host_ops.md R370 to R377).
-/

namespace Sys2Proof.Machine

open Config

variable {P : Params}

/-- `WR CTRL`: `g.pause <- v[0]`, then INIT if `v[1] = 1` (47_host_ops.md R370, R371). -/
def execWrCtrl (v : Word) (s : State P) : Result P :=
  let s := { s with pause := v.getLsbD 0 }
  complete (if v.getLsbD 1 then initBlock s else s)

/-- `RD CTRL` (47_host_ops.md R370). -/
def execRdCtrl (s : State P) : Result P := answer (ctrlWord s) s

/-- `WR STATUS`: RO (47_host_ops.md R372, R408). -/
def execWrStatus (_v : Word) (s : State P) : Result P := reject .generic s

/-- `RD STATUS` (47_host_ops.md R372). -/
def execRdStatus (s : State P) : Result P := answer (s.status.code.setWidth 32) s

/-- `WR TICK` (47_host_ops.md R373). -/
def execWrTick (v : Word) (s : State P) : Result P := complete { s with tick := v.setWidth P.tickBits }

/-- `RD TICK` (47_host_ops.md R373). -/
def execRdTick (s : State P) : Result P := answer (s.tick.setWidth 32) s

/-- `WR RBASE` (47_host_ops.md R374). -/
def execWrRbase (v : Word) (s : State P) : Result P := complete { s with rbase := v }

/-- `RD RBASE` (47_host_ops.md R374). -/
def execRdRbase (s : State P) : Result P := answer s.rbase s

/-- `WR RCOUNT` (47_host_ops.md R374). -/
def execWrRcount (v : Word) (s : State P) : Result P := complete { s with rcount := v }

/-- `RD RCOUNT` (47_host_ops.md R374). -/
def execRdRcount (s : State P) : Result P := answer s.rcount s

/-- `WR RSTRIDE` (47_host_ops.md R374). -/
def execWrRstride (v : Word) (s : State P) : Result P := complete { s with rstride := v }

/-- `RD RSTRIDE` (47_host_ops.md R374). -/
def execRdRstride (s : State P) : Result P := answer s.rstride s

/-- `WR RFMT`: `g.rstereo <- v[0]`, `g.rbig <- v[1]` (47_host_ops.md R374). -/
def execWrRfmt (v : Word) (s : State P) : Result P :=
  complete { s with rstereo := v.getLsbD 0, rbig := v.getLsbD 1 }

/-- `RD RFMT` (47_host_ops.md R374). -/
def execRdRfmt (s : State P) : Result P := answer (rfmtWord s) s

/-- `WR RGO`: `render()`; `v` is ignored (47_host_ops.md R375). -/
def execWrRgo (_v : Word) (s : State P) : Result P := render s

/-- `RD RGO`: WO, reads 0 (47_host_ops.md R375, R409). -/
def execRdRgo (s : State P) : Result P := answer 0 s

/-- `WR GCMD`: the generator operation the word encodes (47_host_ops.md R376). -/
def execWrGcmd (v : Word) (s : State P) : Result P := runGenerator v s

/-- `RD GCMD`: WO, reads 0 (47_host_ops.md R376, R409). -/
def execRdGcmd (s : State P) : Result P := answer 0 s

/-- `WR GARG0` (47_host_ops.md R377). -/
def execWrGarg0 (v : Word) (s : State P) : Result P := complete { s with garg0 := v }

/-- `RD GARG0` (47_host_ops.md R377). -/
def execRdGarg0 (s : State P) : Result P := answer s.garg0 s

/-- `WR GARG1` (47_host_ops.md R377). -/
def execWrGarg1 (v : Word) (s : State P) : Result P := complete { s with garg1 := v }

/-- `RD GARG1` (47_host_ops.md R377). -/
def execRdGarg1 (s : State P) : Result P := answer s.garg1 s

end Sys2Proof.Machine
end

