-- ==== Sys2Proof/Machine/Ports.lean ====
section
/-!
DEFINITION. The meanings of the data ports WTADDR to TAPDATA (47_host_ops.md R378 to R385). A data port's write
and its read both advance the pointer (20_memory.md R109).
-/

namespace Sys2Proof.Machine

open Config

variable {P : Params}

/-- The wavetable pointer advanced; the slot pointer stays when the index wraps (47_host_ops.md R379). -/
def advanceWt (s : State P) : State P := { s with wtIdx := nextIdx s.wtIdx }
/-- The harmonic pointer advanced (47_host_ops.md R381). -/
def advanceHc (s : State P) : State P := { s with hcIdx := nextIdx s.hcIdx }
/-- The custom-table pointer advanced (47_host_ops.md R383). -/
def advanceCt (s : State P) : State P := { s with ctIdx := nextIdx s.ctIdx }
/-- The filter-tap pointer advanced (47_host_ops.md R385). -/
def advanceTap (s : State P) : State P := { s with tapIdx := nextIdx s.tapIdx }

/-- `WR WTADDR` (47_host_ops.md R378). -/
def execWrWtaddr (v : Word) (s : State P) : Result P :=
  storeRanged (wtAddrOf P v) (fun p s => { s with wtSlot := p.1, wtIdx := p.2 }) s

/-- `RD WTADDR` (47_host_ops.md R378). -/
def execRdWtaddr (s : State P) : Result P := answer (wtAddrWord s.wtSlot s.wtIdx) s

/-- `WR WTDATA` (47_host_ops.md R379). -/
def execWrWtdata (v : Word) (s : State P) : Result P :=
  complete (advanceWt { s with wt := s.wt.set s.wtSlot ((s.wt[s.wtSlot]).set s.wtIdx (portIn v)) })

/-- `RD WTDATA` (47_host_ops.md R379). -/
def execRdWtdata (s : State P) : Result P := answer (portOut (s.wt[s.wtSlot][s.wtIdx])) (advanceWt s)

/-- `WR HCADDR` (47_host_ops.md R380). -/
def execWrHcaddr (v : Word) (s : State P) : Result P :=
  storeRanged (indexBelow P.numHarm v.toNat) (fun k s => { s with hcIdx := k }) s

/-- `RD HCADDR` (47_host_ops.md R380). -/
def execRdHcaddr (s : State P) : Result P := answer (natWord s.hcIdx.val) s

/-- `WR HCDATA` (47_host_ops.md R381). -/
def execWrHcdata (v : Word) (s : State P) : Result P :=
  complete (advanceHc { s with hc := s.hc.set s.hcIdx (portIn v) })

/-- `RD HCDATA` (47_host_ops.md R381). -/
def execRdHcdata (s : State P) : Result P := answer (portOut (s.hc[s.hcIdx])) (advanceHc s)

/-- `WR CTADDR` (47_host_ops.md R382). -/
def execWrCtaddr (v : Word) (s : State P) : Result P :=
  storeRanged (indexBelow P.noteCount v.toNat) (fun k s => { s with ctIdx := k }) s

/-- `RD CTADDR` (47_host_ops.md R382). -/
def execRdCtaddr (s : State P) : Result P := answer (natWord s.ctIdx.val) s

/-- `WR CTDATA` (47_host_ops.md R383). -/
def execWrCtdata (v : Word) (s : State P) : Result P :=
  complete (advanceCt { s with ct := s.ct.set s.ctIdx v })

/-- `RD CTDATA` (47_host_ops.md R383). -/
def execRdCtdata (s : State P) : Result P := answer (s.ct[s.ctIdx]) (advanceCt s)

/-- `WR TAPADDR` (47_host_ops.md R384). -/
def execWrTapaddr (v : Word) (s : State P) : Result P :=
  storeRanged (indexBelow P.numTaps v.toNat) (fun k s => { s with tapIdx := k }) s

/-- `RD TAPADDR` (47_host_ops.md R384). -/
def execRdTapaddr (s : State P) : Result P := answer (natWord s.tapIdx.val) s

/-- `WR TAPDATA` (47_host_ops.md R385). -/
def execWrTapdata (v : Word) (s : State P) : Result P :=
  complete (advanceTap { s with tap := s.tap.set s.tapIdx (portIn v) })

/-- `RD TAPDATA` (47_host_ops.md R385). -/
def execRdTapdata (s : State P) : Result P := answer (portOut (s.tap[s.tapIdx])) (advanceTap s)

end Sys2Proof.Machine
end

