-- ==== Sys2Proof/Machine/ChannelConfig.lean ====
section
/-!
DEFINITION. The meanings of the channel configuration registers GENSEL to CHCTRL (47_host_ops.md R386 to R393).
-/

namespace Sys2Proof.Machine

open Config

variable {P : Params}

/-- `WR GENSEL` (47_host_ops.md R386). -/
def execWrChGensel (c : Fin P.numCh) (v : Word) (s : State P) : Result P :=
  chStoreRanged c (GenSel.ofNat P v.toNat) (fun g ch => { ch with gensel := g }) s

/-- `RD GENSEL` (47_host_ops.md R386). -/
def execRdChGensel (c : Fin P.numCh) (s : State P) : Result P := answer ((s.ch c).gensel.code.setWidth 32) s

/-- `WR ATTACK` (47_host_ops.md R387). -/
def execWrChAttack (c : Fin P.numCh) (v : Word) (s : State P) : Result P :=
  chStoreRanged c (rateOf v) (fun x ch => { ch with atk := x }) s

/-- `RD ATTACK` (47_host_ops.md R387). -/
def execRdChAttack (c : Fin P.numCh) (s : State P) : Result P := answer ((s.ch c).atk.setWidth 32) s

/-- `WR DECAY` (47_host_ops.md R387). -/
def execWrChDecay (c : Fin P.numCh) (v : Word) (s : State P) : Result P :=
  chStoreRanged c (rateOf v) (fun x ch => { ch with dec := x }) s

/-- `RD DECAY` (47_host_ops.md R387). -/
def execRdChDecay (c : Fin P.numCh) (s : State P) : Result P := answer ((s.ch c).dec.setWidth 32) s

/-- `WR SUSTAIN` (47_host_ops.md R387). -/
def execWrChSustain (c : Fin P.numCh) (v : Word) (s : State P) : Result P :=
  chStoreRanged c (levelOf P v) (fun x ch => { ch with sus := x }) s

/-- `RD SUSTAIN` (47_host_ops.md R387). -/
def execRdChSustain (c : Fin P.numCh) (s : State P) : Result P := answer ((s.ch c).sus.setWidth 32) s

/-- `WR RELEASE` (47_host_ops.md R387). -/
def execWrChRelease (c : Fin P.numCh) (v : Word) (s : State P) : Result P :=
  chStoreRanged c (rateOf v) (fun x ch => { ch with rel := x }) s

/-- `RD RELEASE` (47_host_ops.md R387). -/
def execRdChRelease (c : Fin P.numCh) (s : State P) : Result P := answer ((s.ch c).rel.setWidth 32) s

/-- `WR FADERATE` (47_host_ops.md R387). -/
def execWrChFaderate (c : Fin P.numCh) (v : Word) (s : State P) : Result P :=
  chStoreRanged c (rateOf v) (fun x ch => { ch with fade := x }) s

/-- `RD FADERATE` (47_host_ops.md R387). -/
def execRdChFaderate (c : Fin P.numCh) (s : State P) : Result P := answer ((s.ch c).fade.setWidth 32) s

/-- `WR DETUNE`: `sext_32(v)`, no check (47_host_ops.md R388). -/
def execWrChDetune (c : Fin P.numCh) (v : Word) (s : State P) : Result P :=
  chStore c (fun ch => { ch with detune := v }) s

/-- `RD DETUNE` (47_host_ops.md R388). -/
def execRdChDetune (c : Fin P.numCh) (s : State P) : Result P := answer (s.ch c).detune s

/-- `WR VOLUME`: the global volume (47_host_ops.md R389). -/
def execWrChVolume (c : Fin P.numCh) (v : Word) (s : State P) : Result P :=
  chStoreRanged c (volumeOf P v) (fun x ch => { ch with gvol := x }) s

/-- `RD VOLUME` (47_host_ops.md R389). -/
def execRdChVolume (c : Fin P.numCh) (s : State P) : Result P := answer ((s.ch c).gvol.setWidth 32) s

/-- `WR SYSVOL`: the system volume and the fade target (47_host_ops.md R390). -/
def execWrChSysvol (c : Fin P.numCh) (v : Word) (s : State P) : Result P :=
  chStoreRanged c (volumeOf P v) (fun x ch => { ch with svol := x, stgt := x }) s

/-- `RD SYSVOL` (47_host_ops.md R390). -/
def execRdChSysvol (c : Fin P.numCh) (s : State P) : Result P := answer ((s.ch c).svol.setWidth 32) s

/-- `WR FADETGT` (47_host_ops.md R391). -/
def execWrChFadetgt (c : Fin P.numCh) (v : Word) (s : State P) : Result P :=
  chStoreRanged c (volumeOf P v) (fun x ch => { ch with stgt := x }) s

/-- `RD FADETGT` (47_host_ops.md R391). -/
def execRdChFadetgt (c : Fin P.numCh) (s : State P) : Result P := answer ((s.ch c).stgt.setWidth 32) s

/-- `WR NOTEOFF`: `forceNoteOff(c)`; `v` is ignored (47_host_ops.md R392). -/
def execWrChNoteoff (c : Fin P.numCh) (_v : Word) (s : State P) : Result P := chStore c Channel.forceNoteOff s

/-- `RD NOTEOFF`: WO, reads 0 (47_host_ops.md R392, R409). -/
def execRdChNoteoff (_c : Fin P.numCh) (s : State P) : Result P := answer 0 s

/-- `WR CHCTRL`: `custom <- v[0]`, `obs <- v[1]` (47_host_ops.md R393). -/
def execWrChChctrl (c : Fin P.numCh) (v : Word) (s : State P) : Result P :=
  chStore c (fun ch => { ch with custom := v.getLsbD 0, obs := v.getLsbD 1 }) s

/-- `RD CHCTRL` (47_host_ops.md R393). -/
def execRdChChctrl (c : Fin P.numCh) (s : State P) : Result P := answer (chctrlWord (s.ch c)) s

end Sys2Proof.Machine
end

