-- ==== Sys2Proof/Machine/Schedule.lean ====
section
/-!
DEFINITION. The meanings of the channel scheduling registers SCHOFS to LOGCMD (47_host_ops.md R394 to R399, R404,
R405).
-/

namespace Sys2Proof.Machine

open Config

variable {P : Params}

/-- `WR SCHOFS`: no check (47_host_ops.md R394). -/
def execWrChSchofs (c : Fin P.numCh) (v : Word) (s : State P) : Result P :=
  chStore c (fun ch => { ch with schofs := v }) s

/-- `RD SCHOFS` (47_host_ops.md R394). -/
def execRdChSchofs (c : Fin P.numCh) (s : State P) : Result P := answer (s.ch c).schofs s

/-- `WR SCHCMD`: `scheduleImmediate`, the checks in order (47_host_ops.md R394). -/
def execWrChSchcmd (c : Fin P.numCh) (v : Word) (s : State P) : Result P :=
  let k := (s.ch c).schofs.toNat
  if cmdRsv v ≠ 0 then reject .malformed s
  else if P.ringCap ≤ k then reject .full s
  else chStore c (Channel.scheduleAndTruncate k v) s

/-- `RD SCHCMD`: WO, reads 0 (47_host_ops.md R394, R409). -/
def execRdChSchcmd (_c : Fin P.numCh) (s : State P) : Result P := answer 0 s

/-- `WR RINGIDX` (47_host_ops.md R404). -/
def execWrChRingidx (c : Fin P.numCh) (v : Word) (s : State P) : Result P :=
  chStoreRanged c (indexBelow P.ringCap v.toNat) (fun k ch => { ch with ringidx := k }) s

/-- `RD RINGIDX` (47_host_ops.md R404). -/
def execRdChRingidx (c : Fin P.numCh) (s : State P) : Result P := answer (natWord (s.ch c).ringidx.val) s

/-- `WR RINGDATA`: RO (47_host_ops.md R404, R408). -/
def execWrChRingdata (_c : Fin P.numCh) (_v : Word) (s : State P) : Result P := reject .generic s

/-- `RD RINGDATA`: the slot at the absolute index `ringidx` (47_host_ops.md R404). -/
def execRdChRingdata (c : Fin P.numCh) (s : State P) : Result P := answer ((s.ch c).ring[(s.ch c).ringidx]) s

/-- CLEAR, then REWIND, then BOUND and LOOPEN (47_host_ops.md R395). -/
def Channel.logControl (v : Word) (ch : Channel P) : Channel P :=
  let ch := if v.getLsbD 2 then { ch with log := [], cursor := 0 } else ch
  let ch := if v.getLsbD 3 then { ch with cursor := 0 } else ch
  { ch with bound := v.getLsbD 0, loopEn := v.getLsbD 1 }

/-- `WR LOGCTRL` (47_host_ops.md R395). -/
def execWrChLogctrl (c : Fin P.numCh) (v : Word) (s : State P) : Result P := chStore c (Channel.logControl v) s

/-- `RD LOGCTRL` (47_host_ops.md R395). -/
def execRdChLogctrl (c : Fin P.numCh) (s : State P) : Result P := answer (logctrlWord (s.ch c)) s

/-- `WR LOGCOUNT`: RO (47_host_ops.md R396, R408). -/
def execWrChLogcount (_c : Fin P.numCh) (_v : Word) (s : State P) : Result P := reject .generic s

/-- `RD LOGCOUNT` (47_host_ops.md R396). -/
def execRdChLogcount (c : Fin P.numCh) (s : State P) : Result P := answer (natWord (s.ch c).log.length) s

/-- `WR LOGCURSOR`: RO (47_host_ops.md R396, R408). -/
def execWrChLogcursor (_c : Fin P.numCh) (_v : Word) (s : State P) : Result P := reject .generic s

/-- `RD LOGCURSOR` (47_host_ops.md R396). -/
def execRdChLogcursor (c : Fin P.numCh) (s : State P) : Result P := answer (s.ch c).cursor s

/-- `WR APPTICK`: no check (47_host_ops.md R397). -/
def execWrChApptick (c : Fin P.numCh) (v : Word) (s : State P) : Result P :=
  chStore c (fun ch => { ch with apptick := v }) s

/-- `RD APPTICK` (47_host_ops.md R397). -/
def execRdChApptick (c : Fin P.numCh) (s : State P) : Result P := answer (s.ch c).apptick s

/-- The log's last entry is stamped after `t` (47_host_ops.md R398). -/
def Channel.outOfOrder (t : Word) (ch : Channel P) : Bool :=
  match ch.log.getLast? with
  | none => false
  | some entry => decide (t.toNat < entry.tick.toNat)

/-- `WR APPCMD`: `append`, the checks in order (47_host_ops.md R398). -/
def execWrChAppcmd (c : Fin P.numCh) (v : Word) (s : State P) : Result P :=
  let t := (s.ch c).apptick
  if cmdRsv v ≠ 0 then reject .malformed s
  else if (s.ch c).outOfOrder t then reject .malformed s
  else if (s.ch c).log.length = P.logCap then reject .full s
  else chStore c (fun ch => { ch with log := ch.log ++ [⟨t, v⟩] }) s

/-- `RD APPCMD`: WO, reads 0 (47_host_ops.md R398, R409). -/
def execRdChAppcmd (_c : Fin P.numCh) (s : State P) : Result P := answer 0 s

/-- `WR LOOPFIRST` (47_host_ops.md R399). -/
def execWrChLoopfirst (c : Fin P.numCh) (v : Word) (s : State P) : Result P :=
  chStoreRanged c (indexBelow P.logCap v.toNat) (fun k ch => { ch with loopFirst := k }) s

/-- `RD LOOPFIRST` (47_host_ops.md R399). -/
def execRdChLoopfirst (c : Fin P.numCh) (s : State P) : Result P := answer (natWord (s.ch c).loopFirst.val) s

/-- `WR LOOPLAST` (47_host_ops.md R399). -/
def execWrChLooplast (c : Fin P.numCh) (v : Word) (s : State P) : Result P :=
  chStoreRanged c (indexBelow P.logCap v.toNat) (fun k ch => { ch with loopLast := k }) s

/-- `RD LOOPLAST` (47_host_ops.md R399). -/
def execRdChLooplast (c : Fin P.numCh) (s : State P) : Result P := answer (natWord (s.ch c).loopLast.val) s

/-- `WR LOOPSTART` (47_host_ops.md R399). -/
def execWrChLoopstart (c : Fin P.numCh) (v : Word) (s : State P) : Result P :=
  chStore c (fun ch => { ch with loopStart := v }) s

/-- `RD LOOPSTART` (47_host_ops.md R399). -/
def execRdChLoopstart (c : Fin P.numCh) (s : State P) : Result P := answer (s.ch c).loopStart s

/-- `WR LOOPEND` (47_host_ops.md R399). -/
def execWrChLoopend (c : Fin P.numCh) (v : Word) (s : State P) : Result P :=
  chStore c (fun ch => { ch with loopEnd := v }) s

/-- `RD LOOPEND` (47_host_ops.md R399). -/
def execRdChLoopend (c : Fin P.numCh) (s : State P) : Result P := answer (s.ch c).loopEnd s

/-- `WR LOGIDX` (47_host_ops.md R405). -/
def execWrChLogidx (c : Fin P.numCh) (v : Word) (s : State P) : Result P :=
  chStoreRanged c (indexBelow P.logCap v.toNat) (fun k ch => { ch with logidx := k }) s

/-- `RD LOGIDX` (47_host_ops.md R405). -/
def execRdChLogidx (c : Fin P.numCh) (s : State P) : Result P := answer (natWord (s.ch c).logidx.val) s

/-- The log entry the peek registers show; a zero entry at or past `count` (47_host_ops.md R405). -/
def Channel.peekLog (ch : Channel P) : LogEntry := (ch.log[ch.logidx.val]?).getD ⟨0, 0⟩

/-- `WR LOGTICK`: RO (47_host_ops.md R405, R408). -/
def execWrChLogtick (_c : Fin P.numCh) (_v : Word) (s : State P) : Result P := reject .generic s

/-- `RD LOGTICK` (47_host_ops.md R405). -/
def execRdChLogtick (c : Fin P.numCh) (s : State P) : Result P := answer (s.ch c).peekLog.tick s

/-- `WR LOGCMD`: RO (47_host_ops.md R405, R408). -/
def execWrChLogcmd (_c : Fin P.numCh) (_v : Word) (s : State P) : Result P := reject .generic s

/-- `RD LOGCMD` (47_host_ops.md R405). -/
def execRdChLogcmd (c : Fin P.numCh) (s : State P) : Result P := answer (s.ch c).peekLog.cmd s

end Sys2Proof.Machine
end

