-- ==== Sys2Proof/Machine/ChannelStatus.lean ====
section
/-!
DEFINITION. The meanings of the channel status registers ENVPHASE to RINGHEAD: read-only views of channel state
(10_state.md R58, 47_host_ops.md R407, R408).
-/

namespace Sys2Proof.Machine

open Config

variable {P : Params}

/-- `WR ENVPHASE`: RO (47_host_ops.md R408). -/
def execWrChEnvphase (_c : Fin P.numCh) (_v : Word) (s : State P) : Result P := reject .generic s

/-- `RD ENVPHASE` (10_state.md R58). -/
def execRdChEnvphase (c : Fin P.numCh) (s : State P) : Result P := answer ((s.ch c).phase.code.setWidth 32) s

/-- `WR GAIN`: RO (47_host_ops.md R408). -/
def execWrChGain (_c : Fin P.numCh) (_v : Word) (s : State P) : Result P := reject .generic s

/-- `RD GAIN` (10_state.md R58). -/
def execRdChGain (c : Fin P.numCh) (s : State P) : Result P := answer ((s.ch c).gain.setWidth 32) s

/-- `WR KEYCNT`: RO (47_host_ops.md R408). -/
def execWrChKeycnt (_c : Fin P.numCh) (_v : Word) (s : State P) : Result P := reject .generic s

/-- `RD KEYCNT` (10_state.md R58). -/
def execRdChKeycnt (c : Fin P.numCh) (s : State P) : Result P := answer ((s.ch c).keycnt) s

/-- `WR NOTEVOL`: RO (47_host_ops.md R408). -/
def execWrChNotevol (_c : Fin P.numCh) (_v : Word) (s : State P) : Result P := reject .generic s

/-- `RD NOTEVOL` (10_state.md R58). -/
def execRdChNotevol (c : Fin P.numCh) (s : State P) : Result P := answer ((s.ch c).nvol.setWidth 32) s

/-- `WR BASEFREQ`: RO (47_host_ops.md R408). -/
def execWrChBasefreq (_c : Fin P.numCh) (_v : Word) (s : State P) : Result P := reject .generic s

/-- `RD BASEFREQ` (10_state.md R58). -/
def execRdChBasefreq (c : Fin P.numCh) (s : State P) : Result P := answer ((s.ch c).base) s

/-- `WR BENTFREQ`: RO (47_host_ops.md R408). -/
def execWrChBentfreq (_c : Fin P.numCh) (_v : Word) (s : State P) : Result P := reject .generic s

/-- `RD BENTFREQ` (10_state.md R58). -/
def execRdChBentfreq (c : Fin P.numCh) (s : State P) : Result P := answer ((s.ch c).bent) s

/-- `WR LASTNOTE`: RO (47_host_ops.md R408). -/
def execWrChLastnote (_c : Fin P.numCh) (_v : Word) (s : State P) : Result P := reject .generic s

/-- `RD LASTNOTE` (10_state.md R58). -/
def execRdChLastnote (c : Fin P.numCh) (s : State P) : Result P := answer ((s.ch c).lastnote.setWidth 32) s

/-- `WR OSCPOS`: RO (47_host_ops.md R408). -/
def execWrChOscpos (_c : Fin P.numCh) (_v : Word) (s : State P) : Result P := reject .generic s

/-- `RD OSCPOS` (10_state.md R58). -/
def execRdChOscpos (c : Fin P.numCh) (s : State P) : Result P := answer (natWord (s.ch c).pos.val) s

/-- `WR LFSR`: RO (47_host_ops.md R408). -/
def execWrChLfsr (_c : Fin P.numCh) (_v : Word) (s : State P) : Result P := reject .generic s

/-- `RD LFSR` (10_state.md R58). -/
def execRdChLfsr (c : Fin P.numCh) (s : State P) : Result P := answer ((s.ch c).lfsr.setWidth 32) s

/-- `WR RINGHEAD`: RO (47_host_ops.md R408). -/
def execWrChRinghead (_c : Fin P.numCh) (_v : Word) (s : State P) : Result P := reject .generic s

/-- `RD RINGHEAD` (10_state.md R58). -/
def execRdChRinghead (c : Fin P.numCh) (s : State P) : Result P := answer (natWord (s.ch c).head.val) s

end Sys2Proof.Machine
end

