-- ==== Sys2Proof/Machine/Dispatch.lean ====
section
/-!
DEFINITION. The dispatch of an instruction to its meaning, one arm per constructor.
-/

namespace Sys2Proof.Machine

def exec (i : Instr) (s : State) : Host.Outcome State Fault Refusal :=
  match i with
  -- command words
  | .nop c k kon nokey f => Sys2Proof.Machine.execNop c k kon nokey f s
  | .keyon c k f => Sys2Proof.Machine.execKeyon c k f s
  | .keyoff c k f => Sys2Proof.Machine.execKeyoff c k f s
  | .param c k kon f => Sys2Proof.Machine.execParam c k kon f s
  -- generator words
  | .genSilence dst srcA srcB => Sys2Proof.Machine.execGenSilence dst srcA srcB s
  | .genSquare50 dst srcA srcB => Sys2Proof.Machine.execGenSquare50 dst srcA srcB s
  | .genSquare25 dst srcA srcB => Sys2Proof.Machine.execGenSquare25 dst srcA srcB s
  | .genSineadd dst srcA srcB => Sys2Proof.Machine.execGenSineadd dst srcA srcB s
  | .genNoiseburst dst srcA srcB => Sys2Proof.Machine.execGenNoiseburst dst srcA srcB s
  | .genTriangle dst srcA srcB => Sys2Proof.Machine.execGenTriangle dst srcA srcB s
  | .genMix dst srcA srcB => Sys2Proof.Machine.execGenMix dst srcA srcB s
  | .genFilter dst srcA srcB => Sys2Proof.Machine.execGenFilter dst srcA srcB s
  -- global registers
  | .wrCtrl v => Sys2Proof.Machine.execWrCtrl v s
  | .rdCtrl => Sys2Proof.Machine.execRdCtrl s
  | .wrStatus v => Sys2Proof.Machine.execWrStatus v s
  | .rdStatus => Sys2Proof.Machine.execRdStatus s
  | .wrTick v => Sys2Proof.Machine.execWrTick v s
  | .rdTick => Sys2Proof.Machine.execRdTick s
  | .wrRbase v => Sys2Proof.Machine.execWrRbase v s
  | .rdRbase => Sys2Proof.Machine.execRdRbase s
  | .wrRcount v => Sys2Proof.Machine.execWrRcount v s
  | .rdRcount => Sys2Proof.Machine.execRdRcount s
  | .wrRstride v => Sys2Proof.Machine.execWrRstride v s
  | .rdRstride => Sys2Proof.Machine.execRdRstride s
  | .wrRfmt v => Sys2Proof.Machine.execWrRfmt v s
  | .rdRfmt => Sys2Proof.Machine.execRdRfmt s
  | .wrRgo v => Sys2Proof.Machine.execWrRgo v s
  | .rdRgo => Sys2Proof.Machine.execRdRgo s
  | .wrGcmd v => Sys2Proof.Machine.execWrGcmd v s
  | .rdGcmd => Sys2Proof.Machine.execRdGcmd s
  | .wrGarg0 v => Sys2Proof.Machine.execWrGarg0 v s
  | .rdGarg0 => Sys2Proof.Machine.execRdGarg0 s
  | .wrGarg1 v => Sys2Proof.Machine.execWrGarg1 v s
  | .rdGarg1 => Sys2Proof.Machine.execRdGarg1 s
  | .wrWtaddr v => Sys2Proof.Machine.execWrWtaddr v s
  | .rdWtaddr => Sys2Proof.Machine.execRdWtaddr s
  | .wrWtdata v => Sys2Proof.Machine.execWrWtdata v s
  | .rdWtdata => Sys2Proof.Machine.execRdWtdata s
  | .wrHcaddr v => Sys2Proof.Machine.execWrHcaddr v s
  | .rdHcaddr => Sys2Proof.Machine.execRdHcaddr s
  | .wrHcdata v => Sys2Proof.Machine.execWrHcdata v s
  | .rdHcdata => Sys2Proof.Machine.execRdHcdata s
  | .wrCtaddr v => Sys2Proof.Machine.execWrCtaddr v s
  | .rdCtaddr => Sys2Proof.Machine.execRdCtaddr s
  | .wrCtdata v => Sys2Proof.Machine.execWrCtdata v s
  | .rdCtdata => Sys2Proof.Machine.execRdCtdata s
  | .wrTapaddr v => Sys2Proof.Machine.execWrTapaddr v s
  | .rdTapaddr => Sys2Proof.Machine.execRdTapaddr s
  | .wrTapdata v => Sys2Proof.Machine.execWrTapdata v s
  | .rdTapdata => Sys2Proof.Machine.execRdTapdata s
  -- channel registers
  | .wrChGensel c v => Sys2Proof.Machine.execWrChGensel c v s
  | .rdChGensel c => Sys2Proof.Machine.execRdChGensel c s
  | .wrChAttack c v => Sys2Proof.Machine.execWrChAttack c v s
  | .rdChAttack c => Sys2Proof.Machine.execRdChAttack c s
  | .wrChDecay c v => Sys2Proof.Machine.execWrChDecay c v s
  | .rdChDecay c => Sys2Proof.Machine.execRdChDecay c s
  | .wrChSustain c v => Sys2Proof.Machine.execWrChSustain c v s
  | .rdChSustain c => Sys2Proof.Machine.execRdChSustain c s
  | .wrChRelease c v => Sys2Proof.Machine.execWrChRelease c v s
  | .rdChRelease c => Sys2Proof.Machine.execRdChRelease c s
  | .wrChFaderate c v => Sys2Proof.Machine.execWrChFaderate c v s
  | .rdChFaderate c => Sys2Proof.Machine.execRdChFaderate c s
  | .wrChDetune c v => Sys2Proof.Machine.execWrChDetune c v s
  | .rdChDetune c => Sys2Proof.Machine.execRdChDetune c s
  | .wrChVolume c v => Sys2Proof.Machine.execWrChVolume c v s
  | .rdChVolume c => Sys2Proof.Machine.execRdChVolume c s
  | .wrChSysvol c v => Sys2Proof.Machine.execWrChSysvol c v s
  | .rdChSysvol c => Sys2Proof.Machine.execRdChSysvol c s
  | .wrChFadetgt c v => Sys2Proof.Machine.execWrChFadetgt c v s
  | .rdChFadetgt c => Sys2Proof.Machine.execRdChFadetgt c s
  | .wrChNoteoff c v => Sys2Proof.Machine.execWrChNoteoff c v s
  | .rdChNoteoff c => Sys2Proof.Machine.execRdChNoteoff c s
  | .wrChChctrl c v => Sys2Proof.Machine.execWrChChctrl c v s
  | .rdChChctrl c => Sys2Proof.Machine.execRdChChctrl c s
  | .wrChSchofs c v => Sys2Proof.Machine.execWrChSchofs c v s
  | .rdChSchofs c => Sys2Proof.Machine.execRdChSchofs c s
  | .wrChSchcmd c v => Sys2Proof.Machine.execWrChSchcmd c v s
  | .rdChSchcmd c => Sys2Proof.Machine.execRdChSchcmd c s
  | .wrChRingidx c v => Sys2Proof.Machine.execWrChRingidx c v s
  | .rdChRingidx c => Sys2Proof.Machine.execRdChRingidx c s
  | .wrChRingdata c v => Sys2Proof.Machine.execWrChRingdata c v s
  | .rdChRingdata c => Sys2Proof.Machine.execRdChRingdata c s
  | .wrChLogctrl c v => Sys2Proof.Machine.execWrChLogctrl c v s
  | .rdChLogctrl c => Sys2Proof.Machine.execRdChLogctrl c s
  | .wrChLogcount c v => Sys2Proof.Machine.execWrChLogcount c v s
  | .rdChLogcount c => Sys2Proof.Machine.execRdChLogcount c s
  | .wrChLogcursor c v => Sys2Proof.Machine.execWrChLogcursor c v s
  | .rdChLogcursor c => Sys2Proof.Machine.execRdChLogcursor c s
  | .wrChApptick c v => Sys2Proof.Machine.execWrChApptick c v s
  | .rdChApptick c => Sys2Proof.Machine.execRdChApptick c s
  | .wrChAppcmd c v => Sys2Proof.Machine.execWrChAppcmd c v s
  | .rdChAppcmd c => Sys2Proof.Machine.execRdChAppcmd c s
  | .wrChLoopfirst c v => Sys2Proof.Machine.execWrChLoopfirst c v s
  | .rdChLoopfirst c => Sys2Proof.Machine.execRdChLoopfirst c s
  | .wrChLooplast c v => Sys2Proof.Machine.execWrChLooplast c v s
  | .rdChLooplast c => Sys2Proof.Machine.execRdChLooplast c s
  | .wrChLoopstart c v => Sys2Proof.Machine.execWrChLoopstart c v s
  | .rdChLoopstart c => Sys2Proof.Machine.execRdChLoopstart c s
  | .wrChLoopend c v => Sys2Proof.Machine.execWrChLoopend c v s
  | .rdChLoopend c => Sys2Proof.Machine.execRdChLoopend c s
  | .wrChLogidx c v => Sys2Proof.Machine.execWrChLogidx c v s
  | .rdChLogidx c => Sys2Proof.Machine.execRdChLogidx c s
  | .wrChLogtick c v => Sys2Proof.Machine.execWrChLogtick c v s
  | .rdChLogtick c => Sys2Proof.Machine.execRdChLogtick c s
  | .wrChLogcmd c v => Sys2Proof.Machine.execWrChLogcmd c v s
  | .rdChLogcmd c => Sys2Proof.Machine.execRdChLogcmd c s
  | .wrChEnvphase c v => Sys2Proof.Machine.execWrChEnvphase c v s
  | .rdChEnvphase c => Sys2Proof.Machine.execRdChEnvphase c s
  | .wrChGain c v => Sys2Proof.Machine.execWrChGain c v s
  | .rdChGain c => Sys2Proof.Machine.execRdChGain c s
  | .wrChKeycnt c v => Sys2Proof.Machine.execWrChKeycnt c v s
  | .rdChKeycnt c => Sys2Proof.Machine.execRdChKeycnt c s
  | .wrChNotevol c v => Sys2Proof.Machine.execWrChNotevol c v s
  | .rdChNotevol c => Sys2Proof.Machine.execRdChNotevol c s
  | .wrChBasefreq c v => Sys2Proof.Machine.execWrChBasefreq c v s
  | .rdChBasefreq c => Sys2Proof.Machine.execRdChBasefreq c s
  | .wrChBentfreq c v => Sys2Proof.Machine.execWrChBentfreq c v s
  | .rdChBentfreq c => Sys2Proof.Machine.execRdChBentfreq c s
  | .wrChLastnote c v => Sys2Proof.Machine.execWrChLastnote c v s
  | .rdChLastnote c => Sys2Proof.Machine.execRdChLastnote c s
  | .wrChOscpos c v => Sys2Proof.Machine.execWrChOscpos c v s
  | .rdChOscpos c => Sys2Proof.Machine.execRdChOscpos c s
  | .wrChLfsr c v => Sys2Proof.Machine.execWrChLfsr c v s
  | .rdChLfsr c => Sys2Proof.Machine.execRdChLfsr c s
  | .wrChRinghead c v => Sys2Proof.Machine.execWrChRinghead c v s
  | .rdChRinghead c => Sys2Proof.Machine.execRdChRinghead c s

end Sys2Proof.Machine
end

