-- ==== Sys2Proof/Machine/Fetch.lean ====
section
/-!
DEFINITION. How an input reaches the block, and the placing of an instruction where the next step performs it.
The block runs no program and fetches nothing (10_state.md R30): it performs the host's operations in order
(00_scope.md R13), and a command word runs when a render consumes the ring slot it stands in (44_ring.md R300).
-/

namespace Sys2Proof.Machine

open Config

variable {P : Params}

/-- One host bus access: the instruction its address decodes to, performed by the dispatch `run`, or the answer to an
access that names no register (30_encoding.md R165, 47_host_ops.md R410). -/
def performBus (run : Instr P → State P → Result P) (op : BusOp) (s : State P) : Result P :=
  match decodeBus op with
  | .ok i => run i s
  | .error why => rejectAccess op why s

/-- The next of the host's operations, performed by the dispatch `run`, or nothing where none is pending: each host
operation is one atomic transition of the whole state (00_scope.md R13, 70_reset_and_hazards.md R454). -/
def stepBy (run : Instr P → State P → Result P) (s : State P) : Result P :=
  match s.pending with
  | [] => .next s
  | .reset :: rest => .next (powerOn rest)
  | .bus op :: rest => performBus run op { s with pending := rest }

/-- The ring of a channel that holds `w` at its head and nothing else. -/
def Channel.withHeadWord (w : Word) (ch : Channel P) : Channel P :=
  { ch with ring := (Vector.replicate P.ringCap 0).set ch.head w, bound := false }

/-- The state in which the next step is a render of one frame that applies `w` to channel `c` and a NOP to
every other (assumption log entry 10): every ring empty but for `w` at the head of channel `c`'s, no log
bound, a consumption tick, not paused, render registers that pass the checks of 46_render.md R341, and a write
of RGO pending. -/
def placeCommand (c : Chan P) (w : Word) (s : State P) : State P :=
  { (s.mapCh (Channel.withHeadWord 0)).modCh c (Channel.withHeadWord w) with
    tick := 0
    pause := false
    rbase := 1
    rcount := 1
    rstride := 2
    rstereo := false
    pending := .bus (.write .word GReg.rgo.addr 0) :: s.pending }

/-- The state in which the next step performs `e`: a bus access is the host's next operation, a generator word
is written to GCMD, a command word is the next one a ring consumes. -/
def place (e : Encoded P) (s : State P) : State P :=
  match e with
  | .command c _ w => placeCommand c w s
  | .generator w => { s with pending := .bus (.write .word GReg.gcmd.addr w) :: s.pending }
  | .bus op => { s with pending := .bus op :: s.pending }

end Sys2Proof.Machine
end

