-- ==== Sys2Proof/Machine/Step.lean ====
section
/-!
DEFINITION. One step of the LSG core, and the placing of an instruction for it.
-/

namespace Sys2Proof.Machine

/-- One step: the next of the host's operations (`stepBy`), its instruction performed by `exec`. -/
def step (s : State) : Host.Outcome State Fault Refusal := stepBy exec s

/-- `s` with the instruction whose table bits are `w` placed so that the next step performs it
(assumption log entries 1, 10 and 11). -/
def State.withFetchWord (s : State) (nbits w : Nat) : State := place (tableEncoded nbits w) s

end Sys2Proof.Machine
end

