-- ==== Sys2Proof/Machine/Builds.lean ====
section
/-!
DEFINITION. The machine of every build (00_scope.md R6, R7): the dispatch of an instruction to its meaning, the step and
the machine, for any value of the parameters. Dispatch.lean, Step.lean and Core.lean have them at the build of the LSG
core, in the form and under the names the host reads; `machineOf_lsg` in Laws/Builds.lean proves that the two agree.
-/

namespace Sys2Proof.Machine

open Config

variable {P : Params}

/-- The dispatch at any build, one arm per constructor. -/
def execIn (i : Instr P) (s : State P) : Result P :=
  match i with
  -- command words
  | .nop c k kon nokey f => execNop c k kon nokey f s
  | .keyon c k f => execKeyon c k f s
  | .keyoff c k f => execKeyoff c k f s
  | .param c k kon f => execParam c k kon f s
  -- generator words
  | .genSilence dst srcA srcB => execGenSilence dst srcA srcB s
  | .genSquare50 dst srcA srcB => execGenSquare50 dst srcA srcB s
  | .genSquare25 dst srcA srcB => execGenSquare25 dst srcA srcB s
  | .genSineadd dst srcA srcB => execGenSineadd dst srcA srcB s
  | .genNoiseburst dst srcA srcB => execGenNoiseburst dst srcA srcB s
  | .genTriangle dst srcA srcB => execGenTriangle dst srcA srcB s
  | .genMix dst srcA srcB => execGenMix dst srcA srcB s
  | .genFilter dst srcA srcB => execGenFilter dst srcA srcB s
  -- global registers
  | .wrCtrl v => execWrCtrl v s
  | .rdCtrl => execRdCtrl s
  | .wrStatus v => execWrStatus v s
  | .rdStatus => execRdStatus s
  | .wrTick v => execWrTick v s
  | .rdTick => execRdTick s
  | .wrRbase v => execWrRbase v s
  | .rdRbase => execRdRbase s
  | .wrRcount v => execWrRcount v s
  | .rdRcount => execRdRcount s
  | .wrRstride v => execWrRstride v s
  | .rdRstride => execRdRstride s
  | .wrRfmt v => execWrRfmt v s
  | .rdRfmt => execRdRfmt s
  | .wrRgo v => execWrRgo v s
  | .rdRgo => execRdRgo s
  | .wrGcmd v => execWrGcmd v s
  | .rdGcmd => execRdGcmd s
  | .wrGarg0 v => execWrGarg0 v s
  | .rdGarg0 => execRdGarg0 s
  | .wrGarg1 v => execWrGarg1 v s
  | .rdGarg1 => execRdGarg1 s
  | .wrWtaddr v => execWrWtaddr v s
  | .rdWtaddr => execRdWtaddr s
  | .wrWtdata v => execWrWtdata v s
  | .rdWtdata => execRdWtdata s
  | .wrHcaddr v => execWrHcaddr v s
  | .rdHcaddr => execRdHcaddr s
  | .wrHcdata v => execWrHcdata v s
  | .rdHcdata => execRdHcdata s
  | .wrCtaddr v => execWrCtaddr v s
  | .rdCtaddr => execRdCtaddr s
  | .wrCtdata v => execWrCtdata v s
  | .rdCtdata => execRdCtdata s
  | .wrTapaddr v => execWrTapaddr v s
  | .rdTapaddr => execRdTapaddr s
  | .wrTapdata v => execWrTapdata v s
  | .rdTapdata => execRdTapdata s
  -- channel registers
  | .wrChGensel c v => execWrChGensel c v s
  | .rdChGensel c => execRdChGensel c s
  | .wrChAttack c v => execWrChAttack c v s
  | .rdChAttack c => execRdChAttack c s
  | .wrChDecay c v => execWrChDecay c v s
  | .rdChDecay c => execRdChDecay c s
  | .wrChSustain c v => execWrChSustain c v s
  | .rdChSustain c => execRdChSustain c s
  | .wrChRelease c v => execWrChRelease c v s
  | .rdChRelease c => execRdChRelease c s
  | .wrChFaderate c v => execWrChFaderate c v s
  | .rdChFaderate c => execRdChFaderate c s
  | .wrChDetune c v => execWrChDetune c v s
  | .rdChDetune c => execRdChDetune c s
  | .wrChVolume c v => execWrChVolume c v s
  | .rdChVolume c => execRdChVolume c s
  | .wrChSysvol c v => execWrChSysvol c v s
  | .rdChSysvol c => execRdChSysvol c s
  | .wrChFadetgt c v => execWrChFadetgt c v s
  | .rdChFadetgt c => execRdChFadetgt c s
  | .wrChNoteoff c v => execWrChNoteoff c v s
  | .rdChNoteoff c => execRdChNoteoff c s
  | .wrChChctrl c v => execWrChChctrl c v s
  | .rdChChctrl c => execRdChChctrl c s
  | .wrChSchofs c v => execWrChSchofs c v s
  | .rdChSchofs c => execRdChSchofs c s
  | .wrChSchcmd c v => execWrChSchcmd c v s
  | .rdChSchcmd c => execRdChSchcmd c s
  | .wrChRingidx c v => execWrChRingidx c v s
  | .rdChRingidx c => execRdChRingidx c s
  | .wrChRingdata c v => execWrChRingdata c v s
  | .rdChRingdata c => execRdChRingdata c s
  | .wrChLogctrl c v => execWrChLogctrl c v s
  | .rdChLogctrl c => execRdChLogctrl c s
  | .wrChLogcount c v => execWrChLogcount c v s
  | .rdChLogcount c => execRdChLogcount c s
  | .wrChLogcursor c v => execWrChLogcursor c v s
  | .rdChLogcursor c => execRdChLogcursor c s
  | .wrChApptick c v => execWrChApptick c v s
  | .rdChApptick c => execRdChApptick c s
  | .wrChAppcmd c v => execWrChAppcmd c v s
  | .rdChAppcmd c => execRdChAppcmd c s
  | .wrChLoopfirst c v => execWrChLoopfirst c v s
  | .rdChLoopfirst c => execRdChLoopfirst c s
  | .wrChLooplast c v => execWrChLooplast c v s
  | .rdChLooplast c => execRdChLooplast c s
  | .wrChLoopstart c v => execWrChLoopstart c v s
  | .rdChLoopstart c => execRdChLoopstart c s
  | .wrChLoopend c v => execWrChLoopend c v s
  | .rdChLoopend c => execRdChLoopend c s
  | .wrChLogidx c v => execWrChLogidx c v s
  | .rdChLogidx c => execRdChLogidx c s
  | .wrChLogtick c v => execWrChLogtick c v s
  | .rdChLogtick c => execRdChLogtick c s
  | .wrChLogcmd c v => execWrChLogcmd c v s
  | .rdChLogcmd c => execRdChLogcmd c s
  | .wrChEnvphase c v => execWrChEnvphase c v s
  | .rdChEnvphase c => execRdChEnvphase c s
  | .wrChGain c v => execWrChGain c v s
  | .rdChGain c => execRdChGain c s
  | .wrChKeycnt c v => execWrChKeycnt c v s
  | .rdChKeycnt c => execRdChKeycnt c s
  | .wrChNotevol c v => execWrChNotevol c v s
  | .rdChNotevol c => execRdChNotevol c s
  | .wrChBasefreq c v => execWrChBasefreq c v s
  | .rdChBasefreq c => execRdChBasefreq c s
  | .wrChBentfreq c v => execWrChBentfreq c v s
  | .rdChBentfreq c => execRdChBentfreq c s
  | .wrChLastnote c v => execWrChLastnote c v s
  | .rdChLastnote c => execRdChLastnote c s
  | .wrChOscpos c v => execWrChOscpos c v s
  | .rdChOscpos c => execRdChOscpos c s
  | .wrChLfsr c v => execWrChLfsr c v s
  | .rdChLfsr c => execRdChLfsr c s
  | .wrChRinghead c v => execWrChRinghead c v s
  | .rdChRinghead c => execRdChRinghead c s

/-- One step at any build. -/
def stepIn (s : State P) : Result P := stepBy execIn s

/-- The block built with the parameters `P`. -/
def machineOf (P : Params) : Host.Core where
  State := State P
  Fault := Fault
  Refusal := Refusal
  step := stepIn
  reset := State.atPowerOn P

end Sys2Proof.Machine
end

