-- ==== Sys2Proof/Safety.lean ====
section
/-!
DEFINITION. What counts as a good state and a safe run, in the terms the statements use: the access types of the
registers (10_state.md R54 to R58), the invariants of the block (10_state.md R44, R53; 30_encoding.md R143;
20_memory.md R103), and the states whose next step is no access without meaning.
-/

namespace Sys2Proof

/-- The global registers marked RO in 10_state.md R55. -/
def GReg.readOnly : GReg → Bool
  | .status => true
  | .ctrl | .tick | .rbase | .rcount | .rstride | .rfmt | .rgo | .gcmd | .garg0 | .garg1 | .wtaddr | .wtdata
  | .hcaddr | .hcdata | .ctaddr | .ctdata | .tapaddr | .tapdata => false

/-- The global registers marked WO in 10_state.md R55. -/
def GReg.writeOnly : GReg → Bool
  | .rgo | .gcmd => true
  | .ctrl | .status | .tick | .rbase | .rcount | .rstride | .rfmt | .garg0 | .garg1 | .wtaddr | .wtdata
  | .hcaddr | .hcdata | .ctaddr | .ctdata | .tapaddr | .tapdata => false

/-- The channel registers marked RO in 10_state.md R57 and R58. -/
def CReg.readOnly : CReg → Bool
  | .ringdata | .logcount | .logcursor | .logtick | .logcmd | .envphase | .gain | .keycnt | .notevol | .basefreq
  | .bentfreq | .lastnote | .oscpos | .lfsr | .ringhead => true
  | .gensel | .attack | .decay | .sustain | .release | .faderate | .detune | .volume | .sysvol | .fadetgt
  | .noteoff | .chctrl | .schofs | .schcmd | .ringidx | .logctrl | .apptick | .appcmd | .loopfirst | .looplast
  | .loopstart | .loopend | .logidx => false

/-- The channel registers marked WO in 10_state.md R56 and R57. -/
def CReg.writeOnly : CReg → Bool
  | .noteoff | .schcmd | .appcmd => true
  | .gensel | .attack | .decay | .sustain | .release | .faderate | .detune | .volume | .sysvol | .fadetgt
  | .chctrl | .schofs | .ringidx | .ringdata | .logctrl | .logcount | .logcursor | .apptick | .loopfirst
  | .looplast | .loopstart | .loopend | .logidx | .logtick | .logcmd | .envphase | .gain | .keycnt | .notevol
  | .basefreq | .bentfreq | .lastnote | .oscpos | .lfsr | .ringhead => false

/-- The four data ports, whose reads advance a pointer (20_memory.md R109). -/
def GReg.dataPort : GReg → Bool
  | .wtdata | .hcdata | .ctdata | .tapdata => true
  | .ctrl | .status | .tick | .rbase | .rcount | .rstride | .rfmt | .rgo | .gcmd | .garg0 | .garg1 | .wtaddr
  | .hcaddr | .ctaddr | .tapaddr => false

namespace Machine

open Config

/-- What holds of a channel in every reachable state (10_state.md R44, R53; 30_encoding.md R143): the clauses of
R53 that are not already the type of a field (assumption log entry 7). -/
structure Channel.Inv (ch : Channel) : Prop where
  gain_le    : ch.gain.toNat ≤ GAIN_MAX
  sus_le     : ch.sus.toNat ≤ GAIN_MAX
  lfsr_ne    : ch.lfsr ≠ 0
  keycnt_ge  : -1 ≤ ch.keycnt.toInt
  log_len    : ch.log.length ≤ LOG_CAP
  log_sorted : ch.log.Pairwise fun a b => a.tick.toNat ≤ b.tick.toNat
  log_words  : ∀ e ∈ ch.log, cmdRsv e.cmd = 0
  ring_words : ∀ j : Fin RING_CAP, cmdRsv ch.ring[j] = 0

/-- What holds of the block in every reachable state: its channels are as above, the output memory is canonical
and lists only addresses a render may write (20_memory.md R103: never byte 0), and every observer record is of an
enabled, well-formed word (41_command_apply.md R231, R237). -/
structure State.Inv (s : State) : Prop where
  chans       : ∀ c : Chan, (s.ch c).Inv
  out_wf      : Memory.wf s.out = true
  out_bounds  : ∀ cell ∈ s.out, 0 < cell.1 ∧ cell.1 < OUT_BYTES
  trace_words : ∀ r ∈ s.trace, cmdEn r.word = true ∧ cmdRsv r.word = 0

/-- The next input is no access without meaning: nothing, the reset input, or a 32-bit access at a multiple of
4 (20_memory.md R101). -/
def State.nextAccessIsWord (s : State) : Prop :=
  match s.pending with
  | [] => True
  | .reset :: _ => True
  | .bus (.write w a _) :: _ => w = .word ∧ a.toNat % 4 = 0
  | .bus (.read w a) :: _ => w = .word ∧ a.toNat % 4 = 0

/-- A safe run of `n` steps: none is refused. -/
def SafeFor (n : Nat) (s : State) : Prop := ∃ t, Host.Core.run Sys2Proof.core n s = .next t

/-! ### What an operation changes, as the statements say it -/

/-- `t` is `s` after an accepted write to channel `c` alone: the channel is `x`, the status is OK, and nothing else
differs. -/
def ChannelWritten (c : Chan) (s t : State) (x : Channel) : Prop :=
  t = { s with status := .ok, chans := t.chans } ∧ t.ch c = x ∧ ∀ d, d ≠ c → t.ch d = s.ch d

/-- `t` is `s` after an accepted generator operation on slot `dst`: sample `i` of the slot is the exact integer
`wave i`, every other slot keeps its samples, the status is OK, and nothing else differs. -/
def SlotWritten (dst : BitVec 8) (s t : State) (wave : Nat → Int) : Prop :=
  t = { s with status := .ok, wt := t.wt } ∧
  ∀ (k : Fin NUM_SLOTS) (i : Fin WT_LEN),
    (t.wt[k][i]).toInt = if k.val = dst.toNat then wave i.val else (s.wt[k][i]).toInt

/-- The frequency channel `ch` resolves note number `n` to (43_oscillator_gain.md R273). -/
def Channel.freqOf (ct : Vector Word NOTE_COUNT) (ch : Channel) (n : Nat) : Nat :=
  if ch.custom then (ct[Fin.ofNat NOTE_COUNT n]).toNat else (noteFreq BASE12 n).toNat

/-- Channel `x` is channel `ch` after steps 3 to 5 of a command with fields `f` (41_command_apply.md R233 to R236),
its key counter and phase being `keycnt` and `phase`; the bend is an exact integer. -/
def CommandChannel (ct : Vector Word NOTE_COUNT) (f : CmdFields) (keycnt : Word) (phase : Phase)
    (ch x : Channel) : Prop :=
  x = { ch with
        keycnt := keycnt, phase := phase, nvol := x.nvol, base := x.base, bent := x.bent, lastnote := x.lastnote } ∧
  x.nvol = (if f.volp then f.vol else ch.nvol) ∧
  x.lastnote = (if f.note ≠ 0 then f.note else ch.lastnote) ∧
  x.base.toNat = (if f.note ≠ 0 then ch.freqOf ct f.note.toNat else ch.base.toNat) ∧
  (x.bent.toNat : Int) =
    if f.pbp then
      x.base.toNat +
        tdiv (((ch.freqOf ct (if f.pbdir then x.lastnote.toNat - 2 else min (x.lastnote.toNat + 2) 127) : Int)
          - x.base.toNat) * f.pbmag.toNat) BEND_MAX
    else if f.note ≠ 0 then x.base.toNat else ch.bent.toNat

/-- `t` is `s` after a command of word `w` was applied to channel `c` at frame `i`: the channel is `x`, the observer
has one more record if the channel's observer is enabled, and nothing else differs (41_command_apply.md R237, R238). -/
def CommandApplied (c : Chan) (i : Nat) (w : Word) (s t : State) (x : Channel) : Prop :=
  t = { s with
        chans := t.chans, trace := s.trace ++ (if (s.ch c).obs then [⟨c, w, i⟩] else []) } ∧
  t.ch c = x ∧ ∀ d, d ≠ c → t.ch d = s.ch d

/-- The render passes the checks of 46_render.md R341 and has frames to write. -/
def State.renderAccepted (s : State) : Prop :=
  s.rcount.toNat ≠ 0 ∧ s.rbase.toNat ≠ 0 ∧ frameSize s ≤ s.rstride.toNat ∧
  s.rbase.toNat + (s.rcount.toNat - 1) * s.rstride.toNat + frameSize s ≤ OUT_BYTES

/-- Address `a` is a byte of one of the `n` frames of a render (46_render.md R350). -/
def InFrames (s : State) (n a : Nat) : Prop :=
  ∃ i, i < n ∧ frameAddr s i ≤ a ∧ a < frameAddr s i + frameSize s

/-- The 16-bit sample at `a` in the output memory is `v` in the byte order of the render (20_memory.md R105). -/
def SampleAt (m : Memory) (big : Bool) (a : Nat) (v : Sample) : Prop :=
  Memory.read m (if big then a + 1 else a) = some (v.extractLsb' 0 8) ∧
  Memory.read m (if big then a else a + 1) = some (v.extractLsb' 8 8)

/-- The channel defaults of 70_reset_and_hazards.md R453. -/
structure Channel.AtDefaults (ch : Channel) : Prop where
  rates   : ch.atk.toNat = GAIN_MAX ∧ ch.dec.toNat = 0 ∧ ch.sus.toNat = GAIN_MAX ∧ ch.rel.toNat = GAIN_MAX ∧
            ch.fade.toNat = 0
  silent  : ch.phase = .sr ∧ ch.gain.toNat = 0 ∧ ch.keycnt.toInt = -1
  volumes : ch.nvol.toNat = 127 ∧ ch.gvol.toNat = 127 ∧ ch.svol.toNat = 127 ∧ ch.stgt.toNat = 127
  pitch   : ch.base.toNat = 0 ∧ ch.bent.toNat = 0 ∧ ch.lastnote.toNat = 0 ∧ ch.detune.toInt = 0 ∧ ch.custom = false
  osc     : ch.gensel = .slot 0 ∧ ch.pos.val = 0 ∧ ch.lfsr.toNat = NOISE_SEED ∧ ch.obs = false
  ring    : ch.head.val = 0 ∧ ∀ j : Fin RING_CAP, ch.ring[j] = 0
  unbound : ch.bound = false

/-- The values power-on reset gives (70_reset_and_hazards.md R450), every field but the output memory, whose contents
are unspecified, and the model's own two. -/
structure State.PoweredOn (s : State) : Prop where
  control  : s.tick.toNat = 0 ∧ s.pause = false ∧ s.status = .ok
  render   : s.rbase.toNat = 0 ∧ s.rcount.toNat = 0 ∧ s.rstride.toNat = 0 ∧ s.rstereo = false ∧ s.rbig = false
  args     : s.garg0.toNat = 0 ∧ s.garg1.toNat = 0
  pointers : s.wtSlot.val = 0 ∧ s.wtIdx.val = 0 ∧ s.hcIdx.val = 0 ∧ s.ctIdx.val = 0 ∧ s.tapIdx.val = 0
  chans    : ∀ c : Chan, (s.ch c).AtDefaults
  logs     : ∀ c : Chan, (s.ch c).log = [] ∧ (s.ch c).cursor.toNat = 0 ∧ (s.ch c).loopEn = false ∧
             (s.ch c).loopFirst.val = 0 ∧ (s.ch c).loopLast.val = 0 ∧ (s.ch c).loopStart.toNat = 0 ∧
             (s.ch c).loopEnd.toNat = 0
  staging  : ∀ c : Chan, (s.ch c).schofs.toNat = 0 ∧ (s.ch c).apptick.toNat = 0 ∧ (s.ch c).ringidx.val = 0 ∧
             (s.ch c).logidx.val = 0
  wt       : ∀ (k : Fin NUM_SLOTS) (i : Fin WT_LEN), (s.wt[k][i]).toInt = 0
  ct       : ∀ n : Fin NOTE_COUNT, (s.ct[n]).toNat = 0
  hc       : ∀ h : Fin NUM_HARM, (s.hc[h]).toInt = 0
  tap      : ∀ j : Fin NUM_TAPS, (s.tap[j]).toInt = if j.val = 0 then 0x4000 else 0
  trace    : s.trace = []

/-- `eff(c, p) = (e, T)` for an entry that is there (45_log_fill.md R317, R318): the effective index and the logical
tick of cursor value `p`. -/
def Channel.Logical (ch : Channel) (p e T : Nat) : Prop :=
  ∃ entry : LogEntry, ch.log[e]? = some entry ∧
    if ch.loopEn = true ∧ ch.loopFirst.val ≤ ch.loopLast.val ∧ ch.loopStart.toNat < ch.loopEnd.toNat ∧
        ch.loopFirst.val ≤ p then
      e = ch.loopFirst.val + (p - ch.loopFirst.val) % (ch.loopLast.val - ch.loopFirst.val + 1) ∧
      T = entry.tick.toNat + (p - ch.loopFirst.val) / (ch.loopLast.val - ch.loopFirst.val + 1) *
            (ch.loopEnd.toNat - ch.loopStart.toNat)
    else e = p ∧ T = entry.tick.toNat

/-- The fill at `cur` stops on channel `ch` (45_log_fill.md R319): the cursor is saturated, there is no entry yet, or
the entry lies past the window. -/
def Channel.FillStops (cur : Nat) (ch : Channel) : Prop :=
  ch.cursor.toNat = 2 ^ 32 - 1 ∨ (∀ e T, ¬ ch.Logical ch.cursor.toNat e T) ∨
  ∃ e T, ch.Logical ch.cursor.toNat e T ∧ cur + RING_CAP * FI ≤ T

/-- The fill at `cur` advances from channel `ch` to channel `x` over one entry (45_log_fill.md R319, R321, R322): a
late entry is discarded, an entry in the window takes its slot and clears every later one; the cursor counts one. -/
def Channel.FillAdvances (cur : Nat) (ch x : Channel) : Prop :=
  ch.cursor.toNat ≠ 2 ^ 32 - 1 ∧ x.cursor.toNat = ch.cursor.toNat + 1 ∧
  x = { ch with cursor := x.cursor, ring := x.ring } ∧
  ∃ (e T : Nat) (entry : LogEntry), ch.Logical ch.cursor.toNat e T ∧ ch.log[e]? = some entry ∧
    T < cur + RING_CAP * FI ∧
    if T < cur then x.ring = ch.ring
    else (T - cur) / FI < RING_CAP ∧ ∀ j, j < RING_CAP →
      x.slotAt j = if j < (T - cur) / FI then ch.slotAt j else if j = (T - cur) / FI then entry.cmd else 0

/-- The frames from the current tick to the next consumption tick: `t₀ − g.tick` (44_ring.md R304). -/
def State.framesToConsumption (s : State) : Nat := (FI - s.tick.toNat % FI) % FI

/-- The number of consumption ticks among the `n` ticks from the current one on, modulo 2^32 (46_render.md R345). -/
def State.consumptionsIn (s : State) (n : Nat) : Nat :=
  ((List.range n).filter fun k => (s.tick.toNat + k) % 2 ^ 32 % FI = 0).length

/-- The states that differ in the observer stream alone (60_exceptions.md R436). -/
def State.SameButTrace (s t : State) : Prop := t = { s with trace := t.trace }

end Machine

end Sys2Proof
end

