-- ==== Sys2Proof/Certificates/Slice0/Obligations.lean ====
section
/-!
DEFINITION. The statements about this model, one definition each; OBLIGATIONS.json names the rules of spec/ they
formalise. Numbers are written out as the spec writes them: a written value `v` is `v.toNat` (or `v.toInt` where the
rule reads it signed), `g.status` is a result code by name.
-/

section Statements

open Sys2Proof Sys2Proof.Machine Sys2Proof.Config

/-! ### Encoding -/

/-- In every build, decoding the encoding of a well-formed instruction gives it back, with every operand (30_encoding.md
R140, R160, R165). -/
def Obligations.DecodeEncodeAgree : Prop :=
  ∀ (P : Params) (i : Instr P), i.wellFormed = true → decode (encode i) = .ok i

/-- In every build, each word, and each bus access, that decodes has one meaning: encoding what it decodes to gives the
very word back, with every bit a form ignores. So no access to the block of a channel the build lacks decodes. -/
def Obligations.EncodeOfDecodedIsTheWord : Prop :=
  ∀ (P : Params) (e : Encoded P) (i : Instr P), decode e = .ok i → encode i = e

/-- The worked encodings of 30_encoding.md R148, the generator words of 95_test_vectors.md §2.1 and some register
accesses of 10_state.md R55 to R58. -/
def Obligations.WorkedEncodingsDecode : Prop :=
  (∀ (c : Chan) (i : Nat),
    decode (.command c i 0x00000000) = .ok (.nop c i false false
      { volp := false, pbp := false, rsv := 0, vol := 0, pbdir := false, pbmag := 0, note := 0 }) ∧
    decode (.command c i 0xD01FC03C) = .ok (.keyon c i
      { volp := true, pbp := false, rsv := 0, vol := 127, pbdir := false, pbmag := 0, note := 60 }) ∧
    decode (.command c i 0xC0000045) = .ok (.keyon c i
      { volp := false, pbp := false, rsv := 0, vol := 0, pbdir := false, pbmag := 0, note := 69 }) ∧
    decode (.command c i 0x80000000) = .ok (.keyoff c i
      { volp := false, pbp := false, rsv := 0, vol := 0, pbdir := false, pbmag := 0, note := 0 }) ∧
    decode (.command c i 0x90100000) = .ok (.keyoff c i
      { volp := true, pbp := false, rsv := 0, vol := 64, pbdir := false, pbmag := 0, note := 0 }) ∧
    decode (.command c i 0xB0000000) = .ok (.param c i false
      { volp := true, pbp := false, rsv := 0, vol := 0, pbdir := false, pbmag := 0, note := 0 }) ∧
    decode (.command c i 0xA8001F80) = .ok (.param c i false
      { volp := false, pbp := true, rsv := 0, vol := 0, pbdir := false, pbmag := 63, note := 0 }) ∧
    decode (.command c i 0xA8003000) = .ok (.param c i false
      { volp := false, pbp := true, rsv := 0, vol := 0, pbdir := true, pbmag := 32, note := 0 }) ∧
    decode (.command c i 0xD819203C) = .ok (.keyon c i
      { volp := true, pbp := true, rsv := 0, vol := 100, pbdir := true, pbmag := 0, note := 60 }) ∧
    decode (.command c i 0x80200000) = .error (.word .reservedCommandBits)) ∧
  decode (P := lsg) (.generator 0x00000001) = .ok (.genSquare50 0 0 0) ∧
  decode (P := lsg) (.generator 0x00000102) = .ok (.genSquare25 1 0 0) ∧
  decode (P := lsg) (.generator 0x00000105) = .ok (.genTriangle 1 0 0) ∧
  decode (P := lsg) (.generator 0x00001000) = .ok (.genSilence 16 0 0) ∧
  decode (P := lsg) (.generator 0xFF030206) = .ok (.genMix 2 3 0xFF) ∧
  decode (P := lsg) (.generator 0x00000009) = .error (.word .reservedGeneratorOp) ∧
  decode (P := lsg) (.generator 0x00000010) = .error (.word .reservedGeneratorBits) ∧
  (∀ v : Word,
    decode (P := lsg) (.bus (.write .word 0x008 v)) = .ok (.wrTick v) ∧
    decode (P := lsg) (.bus (.write .word 0x030 v)) = .ok (.wrGcmd v) ∧
    decode (P := lsg) (.bus (.write .word 0x1034 v)) = .ok (.wrChSchcmd 0 v) ∧
    decode (P := lsg) (.bus (.write .word 0x1C04 v)) = .ok (.wrChAttack 12 v)) ∧
  decode (P := lsg) (.bus (.read .word 0x004)) = .ok .rdStatus ∧
  decode (P := lsg) (.bus (.read .word 0x10A4)) = .ok (.rdChRinghead 0) ∧
  decode (P := lsg) (.bus (.read .word 0x1D00)) = .error (.access .absentChannel) ∧
  decode (P := lsg) (.bus (.read .word 0x00C)) = .error (.access .unmapped)

/-- A write of GCMD performs the generator operation its word decodes to; a word with `GRSV ≠ 0` or `OP ≥ 8` is refused
with ERR_MALFORMED and changes nothing else (30_encoding.md R162, 47_host_ops.md R376). -/
def Obligations.GcmdRunsTheWordWritten : Prop :=
  ∀ (v : Word) (s : State),
    (∀ i : Instr, decode (.generator v) = .ok i → ∃ t, exec (.wrGcmd v) s = .next t ∧ exec i s = .next t) ∧
    (v.toNat / 16 % 16 ≠ 0 ∨ 8 ≤ v.toNat % 16 →
      exec (.wrGcmd v) s = .next { s with status := .malformed } ∧ ∀ i : Instr, decode (.generator v) ≠ .ok i) ∧
    (v.toNat / 16 % 16 = 0 → v.toNat % 16 < 8 → ∃ i : Instr, decode (.generator v) = .ok i)

/-! ### The step -/

/-- A step performs the host's next operation: the instruction its access decodes to, run where that operation is no
longer pending. With no operation pending the block waits (70_reset_and_hazards.md R454). That the host's operations
stand in a list is the model's choice (assumption log entry 1). The machine of every other build does the same by its own
decoder and dispatch (00_scope.md R6). -/
def Obligations.StepPerformsTheDecodedAccess : Prop :=
  (∀ (s : State) (rest : List Input),
    (∀ (op : BusOp) (i : Instr), s.pending = .bus op :: rest → decode (.bus op) = .ok i →
      step s = exec i { s with pending := rest }) ∧
    (s.pending = [] → step s = .next s)) ∧
  ∀ (P : Params) (s : State P) (rest : List Input),
    (∀ (op : BusOp) (i : Instr P), s.pending = .bus op :: rest → decode (.bus op) = .ok i →
      (machineOf P).step s = execIn i { s with pending := rest }) ∧
    (s.pending = [] → (machineOf P).step s = .next s)

/-- Accesses that name no register (47_host_ops.md R410): a write to an absent channel block is refused with ERR_RANGE,
one to any other unmapped address with ERR_GENERIC, a read returns 0; an access that is no aligned word access is
refused without meaning. -/
def Obligations.UnmappedAccessesAreAnswered : Prop :=
  ∀ (s : State) (rest : List Input) (w : Width) (a : BitVec 13) (v : Word),
    (s.pending = .bus (.write w a v) :: rest →
      (w ≠ .word ∨ a.toNat % 4 ≠ 0 → ∃ why, step s = .refused (.accessWithoutMeaning why)) ∧
      (w = .word → a.toNat % 4 = 0 → 0x1000 + NUM_CH * 0x100 ≤ a.toNat →
        step s = .next { s with pending := rest, status := .range }) ∧
      (w = .word → a.toNat % 4 = 0 → a.toNat < 0x1000 + NUM_CH * 0x100 →
        (∀ r : GReg, r.addr ≠ a) → (∀ (c : Chan) (r : CReg), r.addr c ≠ a) →
        step s = .next { s with pending := rest, status := .generic })) ∧
    (s.pending = .bus (.read w a) :: rest →
      (w ≠ .word ∨ a.toNat % 4 ≠ 0 → ∃ why, step s = .refused (.accessWithoutMeaning why)) ∧
      (w = .word → a.toNat % 4 = 0 →
        (∀ r : GReg, r.addr ≠ a) → (∀ (c : Chan) (r : CReg), r.addr c ≠ a) →
        step s = .next { s with pending := rest, rdata := 0 }))

/-- No operation of the block aborts: every instruction, on every state, answers a next state, in the LSG core and in
every other build (60_exceptions.md R420; the fields it leaves are the other statements' matter). -/
def Obligations.EveryInstructionCompletes : Prop :=
  (∀ (i : Instr) (s : State), ∃ t, exec i s = .next t) ∧
  ∀ (P : Params) (i : Instr P) (s : State P), ∃ t, execIn i s = .next t

/-- The machine stops on nothing but an access that is no 32-bit word at a multiple of 4 (20_memory.md R101): a step
answers a next state exactly where the next input is no such access. -/
def Obligations.StepStopsOnlyOnMeaninglessAccesses : Prop :=
  ∀ s : State, (∃ t, step s = .next t) ↔ s.nextAccessIsWord

/-- The consumption step of a frame (46_render.md R345): off a consumption tick nothing; on one, each channel consumes
its head word, that word's instruction runs on the channel, and the fade advances. What channel `c` becomes is its own
consumption step's; the observer stream gets the channels' records in channel order; nothing else changes. -/
def Obligations.ConsumptionTickAppliesEachHeadWord : Prop :=
  ∀ (i : Nat) (s : State),
    (s.tick.toNat % FI ≠ 0 → consumeAll i s = s) ∧
    (s.tick.toNat % FI = 0 →
      consumeAll i s = { s with chans := (consumeAll i s).chans, trace := (consumeAll i s).trace } ∧
      (∀ c : Chan, (consumeAll i s).ch c = (consumeStep i c s).ch c) ∧
      (consumeAll i s).trace =
        s.trace ++ (List.finRange NUM_CH).flatMap fun c => (consumeStep i c s).trace.drop s.trace.length) ∧
    ∀ (c : Chan) (j : Instr), decode (.command c i (s.ch c).consume.1) = .ok j →
      ∃ t, exec j (s.setCh c (s.ch c).consume.2) = .next t ∧ consumeStep i c s = t.modCh c Channel.fadeStep

/-! ### Reset and the invariant -/

/-- The reset input gives every field its power-on value, in one step, and the state the model starts from has them
too (70_reset_and_hazards.md R450, R453). The last clause, that the host's later operations stay pending, is the model's
choice and no rule of the spec (assumption log entry 4). -/
def Obligations.ResetInputGivesPowerOnValues : Prop :=
  State.reset.PoweredOn ∧
  ∀ (s : State) (rest : List Input), s.pending = .reset :: rest →
    ∃ t, step s = .next t ∧ t.PoweredOn ∧ t.pending = rest

/-- The invariant of the block (10_state.md R44, R53; 30_encoding.md R143; 20_memory.md R103) holds after reset. -/
def Obligations.ResetMeetsTheBlockInvariant : Prop :=
  State.reset.Inv

/-- From every state that meets the invariant of the block, a step gives a state that meets it (10_state.md R53). -/
def Obligations.StepKeepsTheBlockInvariant : Prop :=
  ∀ s t : State, s.Inv → step s = .next t → t.Inv

/-- CTRL and INIT (47_host_ops.md R370, R371). -/
def Obligations.ControlWritePausesAndInitializes : Prop :=
  ∀ (v : Word) (s : State),
    (v.getLsbD 1 = false →
      exec (.wrCtrl v) s = .next { s with pause := v.getLsbD 0, status := .ok }) ∧
    (v.getLsbD 1 = true →
      ∃ t, exec (.wrCtrl v) s = .next t ∧
        t = { s with pause := v.getLsbD 0, status := .ok, tick := 0, wt := t.wt, chans := t.chans } ∧
        (∀ (k : Fin NUM_SLOTS) (i : Fin WT_LEN), (t.wt[k][i]).toInt = 0) ∧
        ∀ c : Chan, (t.ch c).AtDefaults ∧
          (t.ch c).log = (s.ch c).log ∧ (t.ch c).cursor = (s.ch c).cursor ∧ (t.ch c).loopEn = (s.ch c).loopEn ∧
          (t.ch c).loopFirst = (s.ch c).loopFirst ∧ (t.ch c).loopLast = (s.ch c).loopLast ∧
          (t.ch c).loopStart = (s.ch c).loopStart ∧ (t.ch c).loopEnd = (s.ch c).loopEnd ∧
          (t.ch c).schofs = (s.ch c).schofs ∧ (t.ch c).apptick = (s.ch c).apptick ∧
          (t.ch c).ringidx = (s.ch c).ringidx ∧ (t.ch c).logidx = (s.ch c).logidx) ∧
    exec .rdCtrl s = .next { s with rdata := if s.pause then 1 else 0 }

/-- INIT right after power-on reset changes nothing (70_reset_and_hazards.md R452). -/
def Obligations.InitAfterPowerOnChangesNothing : Prop :=
  exec (.wrCtrl 2) State.reset = .next State.reset

/-! ### Registers -/

/-- The global registers without a check (47_host_ops.md R373, R374, R377) and STATUS (R372, 60_exceptions.md R421). -/
def Obligations.GlobalRegistersHoldWhatIsWritten : Prop :=
  ∀ (v : Word) (s : State),
    exec (.wrTick v) s = .next { s with tick := v, status := .ok } ∧
    exec .rdTick s = .next { s with rdata := s.tick } ∧
    exec (.wrRbase v) s = .next { s with rbase := v, status := .ok } ∧
    exec .rdRbase s = .next { s with rdata := s.rbase } ∧
    exec (.wrRcount v) s = .next { s with rcount := v, status := .ok } ∧
    exec .rdRcount s = .next { s with rdata := s.rcount } ∧
    exec (.wrRstride v) s = .next { s with rstride := v, status := .ok } ∧
    exec .rdRstride s = .next { s with rdata := s.rstride } ∧
    exec (.wrRfmt v) s = .next { s with rstereo := v.getLsbD 0, rbig := v.getLsbD 1, status := .ok } ∧
    exec .rdRfmt s = .next { s with rdata := BitVec.ofNat 32 (s.rstereo.toNat + 2 * s.rbig.toNat) } ∧
    exec (.wrGarg0 v) s = .next { s with garg0 := v, status := .ok } ∧
    exec .rdGarg0 s = .next { s with rdata := s.garg0 } ∧
    exec (.wrGarg1 v) s = .next { s with garg1 := v, status := .ok } ∧
    exec .rdGarg1 s = .next { s with rdata := s.garg1 } ∧
    exec .rdStatus s = .next { s with rdata :=
      match s.status with
      | .ok => 0 | .range => 1 | .null => 2 | .full => 3 | .malformed => 4 | .generic => 5 } ∧
    exec (.wrStatus v) s = .next { s with status := .generic }

/-- A write to a read-only register is refused with ERR_GENERIC and changes nothing else (47_host_ops.md R408). -/
def Obligations.ReadOnlyRegistersRefuseWrites : Prop :=
  ∀ (c : Chan) (v : Word) (s : State),
    ∀ i ∈ [Instr.wrStatus v, .wrChRingdata c v, .wrChLogcount c v, .wrChLogcursor c v, .wrChLogtick c v,
        .wrChLogcmd c v, .wrChEnvphase c v, .wrChGain c v, .wrChKeycnt c v, .wrChNotevol c v, .wrChBasefreq c v,
        .wrChBentfreq c v, .wrChLastnote c v, .wrChOscpos c v, .wrChLfsr c v, .wrChRinghead c v],
      exec i s = .next { s with status := .generic }

/-- A read of a write-only register returns 0 and has no effect; a W1 bit reads 0, and writing it as 0 does nothing
(47_host_ops.md R409). -/
def Obligations.WriteOnlyRegistersReadZero : Prop :=
  ∀ (c : Chan) (v : Word) (s : State),
    (∀ i ∈ [Instr.rdRgo, .rdGcmd, .rdChNoteoff c, .rdChSchcmd c, .rdChAppcmd c],
      exec i s = .next { s with rdata := 0 }) ∧
    (∃ x, exec .rdCtrl s = .next { s with rdata := x } ∧ x.getLsbD 1 = false) ∧
    (∃ x, exec (.rdChLogctrl c) s = .next { s with rdata := x } ∧ x.getLsbD 2 = false ∧ x.getLsbD 3 = false) ∧
    (v.getLsbD 1 = false → ∃ t, exec (.wrCtrl v) s = .next t ∧
      t = { s with pause := t.pause, status := .ok }) ∧
    (v.getLsbD 2 = false → v.getLsbD 3 = false → ∃ t, exec (.wrChLogctrl c v) s = .next t ∧
      ChannelWritten c s t { s.ch c with bound := (t.ch c).bound, loopEn := (t.ch c).loopEn })

/-- A read writes no result code and no state but the value it returns and, on the four data ports, the port's pointer;
a read of a channel register reads that channel only (47_host_ops.md R406). -/
def Obligations.ReadsHaveNoOtherEffect : Prop :=
  ∀ s : State,
    (∀ r : GReg, r.dataPort = false → ∃ x, exec r.rd s = .next { s with rdata := x }) ∧
    (∃ x p, exec .rdWtdata s = .next { s with rdata := x, wtIdx := p }) ∧
    (∃ x p, exec .rdHcdata s = .next { s with rdata := x, hcIdx := p }) ∧
    (∃ x p, exec .rdCtdata s = .next { s with rdata := x, ctIdx := p }) ∧
    (∃ x p, exec .rdTapdata s = .next { s with rdata := x, tapIdx := p }) ∧
    ∀ (c : Chan) (r : CReg), ∃ x, ∀ u : State, u.ch c = s.ch c → exec (r.rd c) u = .next { u with rdata := x }

/-- A register write sets OK, or changes nothing but `g.status` (10_state.md R62, 47_host_ops.md R400). -/
def Obligations.RefusedWritesChangeOnlyTheStatus : Prop :=
  ∀ (r : Reg) (v : Word) (s t : State), exec (r.wr v) s = .next t →
    t.status = .ok ∨ t = { s with status := t.status }

/-- The channel status registers (10_state.md R58, 47_host_ops.md R407): each read returns its field, each write is
refused. -/
def Obligations.ChannelStatusRegistersShowTheChannel : Prop :=
  ∀ (c : Chan) (v : Word) (s : State),
    (∀ i ∈ [Instr.wrChEnvphase c v, .wrChGain c v, .wrChKeycnt c v, .wrChNotevol c v, .wrChBasefreq c v,
        .wrChBentfreq c v, .wrChLastnote c v, .wrChOscpos c v, .wrChLfsr c v, .wrChRinghead c v],
      exec i s = .next { s with status := .generic }) ∧
    exec (.rdChEnvphase c) s = .next { s with rdata :=
      match (s.ch c).phase with | .attack => 0 | .decay => 1 | .sr => 2 } ∧
    exec (.rdChGain c) s = .next { s with rdata := BitVec.ofNat 32 (s.ch c).gain.toNat } ∧
    exec (.rdChKeycnt c) s = .next { s with rdata := BitVec.ofInt 32 (s.ch c).keycnt.toInt } ∧
    exec (.rdChNotevol c) s = .next { s with rdata := BitVec.ofNat 32 (s.ch c).nvol.toNat } ∧
    exec (.rdChBasefreq c) s = .next { s with rdata := BitVec.ofNat 32 (s.ch c).base.toNat } ∧
    exec (.rdChBentfreq c) s = .next { s with rdata := BitVec.ofNat 32 (s.ch c).bent.toNat } ∧
    exec (.rdChLastnote c) s = .next { s with rdata := BitVec.ofNat 32 (s.ch c).lastnote.toNat } ∧
    exec (.rdChOscpos c) s = .next { s with rdata := BitVec.ofNat 32 (s.ch c).pos.val } ∧
    exec (.rdChLfsr c) s = .next { s with rdata := BitVec.ofNat 32 (s.ch c).lfsr.toNat } ∧
    exec (.rdChRinghead c) s = .next { s with rdata := BitVec.ofNat 32 (s.ch c).head.val }

/-- The five ADSR registers (47_host_ops.md R387). -/
def Obligations.AdsrRegistersAreCheckedAndStored : Prop :=
  ∀ (c : Chan) (v : Word) (s : State),
    (v.toNat ≤ 0xFFFF →
      (∃ t, exec (.wrChAttack c v) s = .next t ∧
        ChannelWritten c s t { s.ch c with atk := BitVec.ofNat 16 v.toNat }) ∧
      (∃ t, exec (.wrChDecay c v) s = .next t ∧
        ChannelWritten c s t { s.ch c with dec := BitVec.ofNat 16 v.toNat }) ∧
      (∃ t, exec (.wrChRelease c v) s = .next t ∧
        ChannelWritten c s t { s.ch c with rel := BitVec.ofNat 16 v.toNat }) ∧
      (∃ t, exec (.wrChFaderate c v) s = .next t ∧
        ChannelWritten c s t { s.ch c with fade := BitVec.ofNat 16 v.toNat })) ∧
    (0xFFFF < v.toNat →
      exec (.wrChAttack c v) s = .next { s with status := .range } ∧
      exec (.wrChDecay c v) s = .next { s with status := .range } ∧
      exec (.wrChRelease c v) s = .next { s with status := .range } ∧
      exec (.wrChFaderate c v) s = .next { s with status := .range }) ∧
    (v.toNat ≤ GAIN_MAX → ∃ t, exec (.wrChSustain c v) s = .next t ∧
      ChannelWritten c s t { s.ch c with sus := BitVec.ofNat 16 v.toNat }) ∧
    (GAIN_MAX < v.toNat → exec (.wrChSustain c v) s = .next { s with status := .range }) ∧
    exec (.rdChAttack c) s = .next { s with rdata := BitVec.ofNat 32 (s.ch c).atk.toNat } ∧
    exec (.rdChDecay c) s = .next { s with rdata := BitVec.ofNat 32 (s.ch c).dec.toNat } ∧
    exec (.rdChSustain c) s = .next { s with rdata := BitVec.ofNat 32 (s.ch c).sus.toNat } ∧
    exec (.rdChRelease c) s = .next { s with rdata := BitVec.ofNat 32 (s.ch c).rel.toNat } ∧
    exec (.rdChFaderate c) s = .next { s with rdata := BitVec.ofNat 32 (s.ch c).fade.toNat }

/-- GENSEL and the volume registers VOLUME, SYSVOL, FADETGT (47_host_ops.md R386, R389, R390, R391). -/
def Obligations.BindingAndVolumeRegistersAreChecked : Prop :=
  ∀ (c : Chan) (v : Word) (s : State),
    (∀ k : Fin NUM_SLOTS, v.toNat = k.val → ∃ t, exec (.wrChGensel c v) s = .next t ∧
      ChannelWritten c s t { s.ch c with gensel := .slot k }) ∧
    (v.toNat = NOISE_SEL → ∃ t, exec (.wrChGensel c v) s = .next t ∧
      ChannelWritten c s t { s.ch c with gensel := .noise }) ∧
    (NUM_SLOTS ≤ v.toNat → v.toNat ≠ NOISE_SEL → exec (.wrChGensel c v) s = .next { s with status := .range }) ∧
    exec (.rdChGensel c) s = .next { s with rdata :=
      match (s.ch c).gensel with | .slot k => BitVec.ofNat 32 k.val | .noise => BitVec.ofNat 32 NOISE_SEL } ∧
    (v.toNat ≤ 127 →
      (∃ t, exec (.wrChVolume c v) s = .next t ∧
        ChannelWritten c s t { s.ch c with gvol := BitVec.ofNat 7 v.toNat }) ∧
      (∃ t, exec (.wrChSysvol c v) s = .next t ∧
        ChannelWritten c s t { s.ch c with svol := BitVec.ofNat 7 v.toNat, stgt := BitVec.ofNat 7 v.toNat }) ∧
      (∃ t, exec (.wrChFadetgt c v) s = .next t ∧
        ChannelWritten c s t { s.ch c with stgt := BitVec.ofNat 7 v.toNat })) ∧
    (127 < v.toNat →
      exec (.wrChVolume c v) s = .next { s with status := .range } ∧
      exec (.wrChSysvol c v) s = .next { s with status := .range } ∧
      exec (.wrChFadetgt c v) s = .next { s with status := .range }) ∧
    exec (.rdChVolume c) s = .next { s with rdata := BitVec.ofNat 32 (s.ch c).gvol.toNat } ∧
    exec (.rdChSysvol c) s = .next { s with rdata := BitVec.ofNat 32 (s.ch c).svol.toNat } ∧
    exec (.rdChFadetgt c) s = .next { s with rdata := BitVec.ofNat 32 (s.ch c).stgt.toNat }

/-- DETUNE, CHCTRL and NOTEOFF (47_host_ops.md R388, R392, R393; 42_envelope.md R257). -/
def Obligations.DetuneControlAndForcedNoteOff : Prop :=
  ∀ (c : Chan) (v : Word) (s : State),
    (∃ t, exec (.wrChDetune c v) s = .next t ∧
      ChannelWritten c s t { s.ch c with detune := BitVec.ofInt 32 v.toInt }) ∧
    exec (.rdChDetune c) s = .next { s with rdata := BitVec.ofInt 32 (s.ch c).detune.toInt } ∧
    (∃ t, exec (.wrChChctrl c v) s = .next t ∧
      ChannelWritten c s t { s.ch c with custom := v.getLsbD 0, obs := v.getLsbD 1 }) ∧
    exec (.rdChChctrl c) s =
      .next { s with rdata := BitVec.ofNat 32 ((s.ch c).custom.toNat + 2 * (s.ch c).obs.toNat) } ∧
    (∃ t, exec (.wrChNoteoff c v) s = .next t ∧
      ChannelWritten c s t { s.ch c with gain := 0, keycnt := BitVec.ofInt 32 (-1), phase := .sr }) ∧
    exec (.rdChNoteoff c) s = .next { s with rdata := 0 }

/-- The ring peek and the log peek (47_host_ops.md R404, R405). -/
def Obligations.PeekRegistersShowRingAndLog : Prop :=
  ∀ (c : Chan) (v : Word) (s : State),
    (∀ k : Fin RING_CAP, v.toNat = k.val → ∃ t, exec (.wrChRingidx c v) s = .next t ∧
      ChannelWritten c s t { s.ch c with ringidx := k }) ∧
    (RING_CAP ≤ v.toNat → exec (.wrChRingidx c v) s = .next { s with status := .range }) ∧
    exec (.rdChRingidx c) s = .next { s with rdata := BitVec.ofNat 32 (s.ch c).ringidx.val } ∧
    exec (.rdChRingdata c) s = .next { s with rdata := (s.ch c).ring[(s.ch c).ringidx] } ∧
    (∀ k : Fin LOG_CAP, v.toNat = k.val → ∃ t, exec (.wrChLogidx c v) s = .next t ∧
      ChannelWritten c s t { s.ch c with logidx := k }) ∧
    (LOG_CAP ≤ v.toNat → exec (.wrChLogidx c v) s = .next { s with status := .range }) ∧
    exec (.rdChLogidx c) s = .next { s with rdata := BitVec.ofNat 32 (s.ch c).logidx.val } ∧
    (∀ entry, (s.ch c).log[(s.ch c).logidx.val]? = some entry →
      exec (.rdChLogtick c) s = .next { s with rdata := entry.tick } ∧
      exec (.rdChLogcmd c) s = .next { s with rdata := entry.cmd }) ∧
    ((s.ch c).log.length ≤ (s.ch c).logidx.val →
      exec (.rdChLogtick c) s = .next { s with rdata := 0 } ∧
      exec (.rdChLogcmd c) s = .next { s with rdata := 0 }) ∧
    ∀ i ∈ [Instr.wrChRingdata c v, .wrChLogtick c v, .wrChLogcmd c v], exec i s = .next { s with status := .generic }

/-- The loop registers (47_host_ops.md R399). -/
def Obligations.LoopRegistersHoldTheRegion : Prop :=
  ∀ (c : Chan) (v : Word) (s : State),
    (∀ k : Fin LOG_CAP, v.toNat = k.val →
      (∃ t, exec (.wrChLoopfirst c v) s = .next t ∧ ChannelWritten c s t { s.ch c with loopFirst := k }) ∧
      (∃ t, exec (.wrChLooplast c v) s = .next t ∧ ChannelWritten c s t { s.ch c with loopLast := k })) ∧
    (LOG_CAP ≤ v.toNat →
      exec (.wrChLoopfirst c v) s = .next { s with status := .range } ∧
      exec (.wrChLooplast c v) s = .next { s with status := .range }) ∧
    (∃ t, exec (.wrChLoopstart c v) s = .next t ∧ ChannelWritten c s t { s.ch c with loopStart := v }) ∧
    (∃ t, exec (.wrChLoopend c v) s = .next t ∧ ChannelWritten c s t { s.ch c with loopEnd := v }) ∧
    exec (.rdChLoopfirst c) s = .next { s with rdata := BitVec.ofNat 32 (s.ch c).loopFirst.val } ∧
    exec (.rdChLooplast c) s = .next { s with rdata := BitVec.ofNat 32 (s.ch c).loopLast.val } ∧
    exec (.rdChLoopstart c) s = .next { s with rdata := (s.ch c).loopStart } ∧
    exec (.rdChLoopend c) s = .next { s with rdata := (s.ch c).loopEnd }

/-- LOGCTRL, LOGCOUNT, LOGCURSOR and APPTICK (47_host_ops.md R395, R396, R397). -/
def Obligations.LogControlClearsRewindsAndBinds : Prop :=
  ∀ (c : Chan) (v : Word) (s : State),
    (∃ t, exec (.wrChLogctrl c v) s = .next t ∧
      ChannelWritten c s t { s.ch c with
        log := if v.getLsbD 2 then [] else (s.ch c).log
        cursor := if v.getLsbD 2 || v.getLsbD 3 then 0 else (s.ch c).cursor
        bound := v.getLsbD 0
        loopEn := v.getLsbD 1 }) ∧
    exec (.rdChLogctrl c) s =
      .next { s with rdata := BitVec.ofNat 32 ((s.ch c).bound.toNat + 2 * (s.ch c).loopEn.toNat) } ∧
    exec (.rdChLogcount c) s = .next { s with rdata := BitVec.ofNat 32 (s.ch c).log.length } ∧
    exec (.rdChLogcursor c) s = .next { s with rdata := (s.ch c).cursor } ∧
    exec (.wrChLogcount c v) s = .next { s with status := .generic } ∧
    exec (.wrChLogcursor c v) s = .next { s with status := .generic } ∧
    (∃ t, exec (.wrChApptick c v) s = .next t ∧ ChannelWritten c s t { s.ch c with apptick := v }) ∧
    exec (.rdChApptick c) s = .next { s with rdata := (s.ch c).apptick }

/-- APPCMD appends an entry, or refuses it, the checks in order (47_host_ops.md R398): the reserved field, the tick
order, the capacity. -/
def Obligations.AppendChecksOrderAndCapacity : Prop :=
  ∀ (c : Chan) (v : Word) (s : State),
    (v.toNat / 2 ^ 21 % 64 ≠ 0 → exec (.wrChAppcmd c v) s = .next { s with status := .malformed }) ∧
    (v.toNat / 2 ^ 21 % 64 = 0 → ∀ last, (s.ch c).log.getLast? = some last →
      (s.ch c).apptick.toNat < last.tick.toNat →
      exec (.wrChAppcmd c v) s = .next { s with status := .malformed }) ∧
    (v.toNat / 2 ^ 21 % 64 = 0 →
      (∀ last, (s.ch c).log.getLast? = some last → last.tick.toNat ≤ (s.ch c).apptick.toNat) →
      ((s.ch c).log.length = LOG_CAP → exec (.wrChAppcmd c v) s = .next { s with status := .full }) ∧
      ((s.ch c).log.length < LOG_CAP → ∃ t, exec (.wrChAppcmd c v) s = .next t ∧
        ChannelWritten c s t { s.ch c with log := (s.ch c).log ++ [⟨(s.ch c).apptick, v⟩] })) ∧
    exec (.rdChAppcmd c) s = .next { s with rdata := 0 }

/-- SCHOFS and SCHCMD (47_host_ops.md R394): the reserved field is checked first, the offset next; the word takes the
slot at the offset, every later slot is cleared and every earlier one stays (44_ring.md R301). -/
def Obligations.ScheduleImmediateWritesTheRing : Prop :=
  ∀ (c : Chan) (v : Word) (s : State),
    (∃ t, exec (.wrChSchofs c v) s = .next t ∧ ChannelWritten c s t { s.ch c with schofs := v }) ∧
    exec (.rdChSchofs c) s = .next { s with rdata := (s.ch c).schofs } ∧
    (v.toNat / 2 ^ 21 % 64 ≠ 0 → exec (.wrChSchcmd c v) s = .next { s with status := .malformed }) ∧
    (v.toNat / 2 ^ 21 % 64 = 0 → RING_CAP ≤ (s.ch c).schofs.toNat →
      exec (.wrChSchcmd c v) s = .next { s with status := .full }) ∧
    (v.toNat / 2 ^ 21 % 64 = 0 → (s.ch c).schofs.toNat < RING_CAP →
      ∃ t x, exec (.wrChSchcmd c v) s = .next t ∧ ChannelWritten c s t x ∧
        x = { s.ch c with ring := x.ring } ∧
        ∀ j, j < RING_CAP → x.slotAt j =
          if j < (s.ch c).schofs.toNat then (s.ch c).slotAt j
          else if j = (s.ch c).schofs.toNat then v else 0) ∧
    exec (.rdChSchcmd c) s = .next { s with rdata := 0 }

/-- The wavetable port (47_host_ops.md R378, R379). -/
def Obligations.WavetablePortReadsAndWritesSamples : Prop :=
  ∀ (v : Word) (s : State),
    (v.toNat / 2 ^ 24 = 0 → v.toNat / 2 ^ 16 % 2 ^ 8 < NUM_SLOTS → v.toNat % 2 ^ 16 < WT_LEN →
      ∃ t, exec (.wrWtaddr v) s = .next t ∧
        t = { s with status := .ok, wtSlot := t.wtSlot, wtIdx := t.wtIdx } ∧
        t.wtSlot.val = v.toNat / 2 ^ 16 % 2 ^ 8 ∧ t.wtIdx.val = v.toNat % 2 ^ 16) ∧
    (v.toNat / 2 ^ 24 ≠ 0 ∨ NUM_SLOTS ≤ v.toNat / 2 ^ 16 % 2 ^ 8 ∨ WT_LEN ≤ v.toNat % 2 ^ 16 →
      exec (.wrWtaddr v) s = .next { s with status := .range }) ∧
    exec .rdWtaddr s = .next { s with rdata := BitVec.ofNat 32 (s.wtSlot.val * 2 ^ 16 + s.wtIdx.val) } ∧
    (∃ t, exec (.wrWtdata v) s = .next t ∧
      t = { s with status := .ok, wt := t.wt, wtIdx := t.wtIdx } ∧
      t.wtIdx.val = (s.wtIdx.val + 1) % WT_LEN ∧
      ∀ (k : Fin NUM_SLOTS) (i : Fin WT_LEN),
        t.wt[k][i] = if k = s.wtSlot ∧ i = s.wtIdx then BitVec.ofNat 16 v.toNat else s.wt[k][i]) ∧
    ∃ t, exec .rdWtdata s = .next t ∧ t = { s with rdata := t.rdata, wtIdx := t.wtIdx } ∧
      t.rdata.toInt = (s.wt[s.wtSlot][s.wtIdx]).toInt ∧ t.wtIdx.val = (s.wtIdx.val + 1) % WT_LEN

/-- The harmonic, custom-table and filter-tap ports (47_host_ops.md R380 to R385). -/
def Obligations.CoefficientPortsReadAndWriteTheirTables : Prop :=
  ∀ (v : Word) (s : State),
    (∀ k : Fin NUM_HARM, v.toNat = k.val → exec (.wrHcaddr v) s = .next { s with status := .ok, hcIdx := k }) ∧
    (NUM_HARM ≤ v.toNat → exec (.wrHcaddr v) s = .next { s with status := .range }) ∧
    exec .rdHcaddr s = .next { s with rdata := BitVec.ofNat 32 s.hcIdx.val } ∧
    (∃ t, exec (.wrHcdata v) s = .next t ∧ t = { s with status := .ok, hc := t.hc, hcIdx := t.hcIdx } ∧
      t.hcIdx.val = (s.hcIdx.val + 1) % NUM_HARM ∧
      ∀ k : Fin NUM_HARM, t.hc[k] = if k = s.hcIdx then BitVec.ofNat 16 v.toNat else s.hc[k]) ∧
    (∃ t, exec .rdHcdata s = .next t ∧ t = { s with rdata := t.rdata, hcIdx := t.hcIdx } ∧
      t.rdata.toInt = (s.hc[s.hcIdx]).toInt ∧ t.hcIdx.val = (s.hcIdx.val + 1) % NUM_HARM) ∧
    (∀ k : Fin NOTE_COUNT, v.toNat = k.val → exec (.wrCtaddr v) s = .next { s with status := .ok, ctIdx := k }) ∧
    (NOTE_COUNT ≤ v.toNat → exec (.wrCtaddr v) s = .next { s with status := .range }) ∧
    exec .rdCtaddr s = .next { s with rdata := BitVec.ofNat 32 s.ctIdx.val } ∧
    (∃ t, exec (.wrCtdata v) s = .next t ∧ t = { s with status := .ok, ct := t.ct, ctIdx := t.ctIdx } ∧
      t.ctIdx.val = (s.ctIdx.val + 1) % NOTE_COUNT ∧
      ∀ k : Fin NOTE_COUNT, t.ct[k] = if k = s.ctIdx then v else s.ct[k]) ∧
    (∃ t, exec .rdCtdata s = .next t ∧ t = { s with rdata := s.ct[s.ctIdx], ctIdx := t.ctIdx } ∧
      t.ctIdx.val = (s.ctIdx.val + 1) % NOTE_COUNT) ∧
    (∀ k : Fin NUM_TAPS, v.toNat = k.val → exec (.wrTapaddr v) s = .next { s with status := .ok, tapIdx := k }) ∧
    (NUM_TAPS ≤ v.toNat → exec (.wrTapaddr v) s = .next { s with status := .range }) ∧
    exec .rdTapaddr s = .next { s with rdata := BitVec.ofNat 32 s.tapIdx.val } ∧
    (∃ t, exec (.wrTapdata v) s = .next t ∧ t = { s with status := .ok, tap := t.tap, tapIdx := t.tapIdx } ∧
      t.tapIdx.val = (s.tapIdx.val + 1) % NUM_TAPS ∧
      ∀ k : Fin NUM_TAPS, t.tap[k] = if k = s.tapIdx then BitVec.ofNat 16 v.toNat else s.tap[k]) ∧
    (∃ t, exec .rdTapdata s = .next t ∧ t = { s with rdata := t.rdata, tapIdx := t.tapIdx } ∧
      t.rdata.toInt = (s.tap[s.tapIdx]).toInt ∧ t.tapIdx.val = (s.tapIdx.val + 1) % NUM_TAPS)

/-! ### Generator operations -/

/-- SILENCE, SQUARE50 and SQUARE25 (40_wavetable_bank.md R201, R202, R203). -/
def Obligations.SilenceAndSquareWavesFillTheSlot : Prop :=
  ∀ (dst srcA srcB : BitVec 8) (s : State),
    (dst.toNat < NUM_SLOTS →
      (∃ t, exec (.genSilence dst srcA srcB) s = .next t ∧ SlotWritten dst s t fun _ => 0) ∧
      (s.garg1.toNat ≤ 32767 →
        (∃ t, exec (.genSquare50 dst srcA srcB) s = .next t ∧
          SlotWritten dst s t fun i => if i < WT_LEN / 2 then s.garg1.toNat else -s.garg1.toNat) ∧
        ∃ t, exec (.genSquare25 dst srcA srcB) s = .next t ∧
          SlotWritten dst s t fun i => if i < WT_LEN / 4 then s.garg1.toNat else -s.garg1.toNat)) ∧
    (NUM_SLOTS ≤ dst.toNat → exec (.genSilence dst srcA srcB) s = .next { s with status := .range }) ∧
    (NUM_SLOTS ≤ dst.toNat ∨ 32767 < s.garg1.toNat →
      exec (.genSquare50 dst srcA srcB) s = .next { s with status := .range } ∧
      exec (.genSquare25 dst srcA srcB) s = .next { s with status := .range })

/-- TRIANGLE (40_wavetable_bank.md R204), with `Q = L/4` and `r(k) = tdiv(A·k, Q)`. -/
def Obligations.TriangleMirrorsTheRampOverTheQuadrants : Prop :=
  ∀ (dst srcA srcB : BitVec 8) (s : State),
    (dst.toNat < NUM_SLOTS → s.garg1.toNat ≤ 32767 →
      ∃ t, exec (.genTriangle dst srcA srcB) s = .next t ∧
        SlotWritten dst s t fun i =>
          if i < 4096 then (s.garg1.toNat : Int) * i / 4096
          else if i < 8192 then (s.garg1.toNat : Int) * (8192 - i) / 4096
          else if i < 12288 then -((s.garg1.toNat : Int) * (i - 8192) / 4096)
          else -((s.garg1.toNat : Int) * (16384 - i) / 4096)) ∧
    (NUM_SLOTS ≤ dst.toNat ∨ 32767 < s.garg1.toNat →
      exec (.genTriangle dst srcA srcB) s = .next { s with status := .range })

/-- SINEADD (40_wavetable_bank.md R205): the harmonics' sum, scaled and clamped. -/
def Obligations.SineaddSumsTheHarmonics : Prop :=
  ∀ (dst srcA srcB : BitVec 8) (s : State),
    (dst.toNat < NUM_SLOTS → 1 ≤ s.garg0.toNat → s.garg0.toNat ≤ NUM_HARM → s.garg1.toNat ≤ 32767 →
      ∃ t, exec (.genSineadd dst srcA srcB) s = .next t ∧
        SlotWritten dst s t fun i =>
          clamp (tdiv ((s.garg1.toNat : Int) *
            ∑ h ∈ Finset.range s.garg0.toNat,
              (s.hc[Fin.ofNat NUM_HARM h]).toInt * sinRom ((h + 1) * i % WT_LEN)) (2 ^ 30)) (-32768) 32767) ∧
    (NUM_SLOTS ≤ dst.toNat ∨ s.garg0.toNat = 0 ∨ NUM_HARM < s.garg0.toNat ∨ 32767 < s.garg1.toNat →
      exec (.genSineadd dst srcA srcB) s = .next { s with status := .range })

/-- NOISEBURST (40_wavetable_bank.md R207): block `b` of `B` samples holds the output of the generation register after
`b + 1` steps from `NOISE_SEED`. -/
def Obligations.NoiseburstHoldsOneOutputPerBlock : Prop :=
  ∀ (dst srcA srcB : BitVec 8) (s : State),
    (dst.toNat < NUM_SLOTS → 1 ≤ s.garg0.toNat → s.garg0.toNat ≤ WT_LEN → s.garg1.toNat ≤ 32767 →
      ∃ t, exec (.genNoiseburst dst srcA srcB) s = .next t ∧
        SlotWritten dst s t fun i =>
          if (lfsrStep^[i / s.garg0.toNat + 1] (BitVec.ofNat 15 NOISE_SEED)).getLsbD 0 = false
          then s.garg1.toNat else -s.garg1.toNat) ∧
    (NUM_SLOTS ≤ dst.toNat ∨ s.garg0.toNat = 0 ∨ WT_LEN < s.garg0.toNat ∨ 32767 < s.garg1.toNat →
      exec (.genNoiseburst dst srcA srcB) s = .next { s with status := .range })

/-- MIX (40_wavetable_bank.md R209): the average of two slots as they were before, or of a slot and the virtual noise
input, truncated toward zero. -/
def Obligations.MixAveragesTwoInputs : Prop :=
  ∀ (dst srcA srcB : BitVec 8) (s : State),
    let input := fun (src : BitVec 8) (i : Nat) =>
      if src.toNat = NOISE_SEL then
        if (lfsrStep^[i + 1] (BitVec.ofNat 15 NOISE_SEED)).getLsbD 0 = false
        then (s.garg1.toNat : Int) else -s.garg1.toNat
      else (s.wt[Fin.ofNat NUM_SLOTS src.toNat][Fin.ofNat WT_LEN i]).toInt
    let legal := fun src : BitVec 8 => src.toNat < NUM_SLOTS ∨ src.toNat = NOISE_SEL
    (dst.toNat < NUM_SLOTS → legal srcA → legal srcB → s.garg1.toNat ≤ 32767 →
      ∃ t, exec (.genMix dst srcA srcB) s = .next t ∧
        SlotWritten dst s t fun i => tdiv (input srcA i + input srcB i) 2) ∧
    (NUM_SLOTS ≤ dst.toNat ∨ ¬ legal srcA ∨ ¬ legal srcB ∨ 32767 < s.garg1.toNat →
      exec (.genMix dst srcA srcB) s = .next { s with status := .range })

/-- FILTER (40_wavetable_bank.md R211): the strided convolution of the slot with the taps, in place, clamped. -/
def Obligations.FilterConvolvesTheSlot : Prop :=
  ∀ (dst srcA srcB : BitVec 8) (s : State),
    (dst.toNat < NUM_SLOTS →
      ∃ t, exec (.genFilter dst srcA srcB) s = .next t ∧
        SlotWritten dst s t fun i =>
          clamp (tdiv (∑ j ∈ Finset.range NUM_TAPS,
            (s.tap[Fin.ofNat NUM_TAPS j]).toInt *
              (s.wt[Fin.ofNat NUM_SLOTS dst.toNat][Fin.ofNat WT_LEN (i + j * FILTER_STRIDE)]).toInt) 16384)
            (-32768) 32767) ∧
    (NUM_SLOTS ≤ dst.toNat → exec (.genFilter dst srcA srcB) s = .next { s with status := .range })

/-! ### Command words -/

/-- NOP, KEYON, KEYOFF and PARAM (41_command_apply.md R240 to R243): the key counter, the phase, the note volume, the
base and bent frequencies, the last note and the observer record, and nothing else. -/
def Obligations.CommandWordsUpdateKeyAndPitch : Prop :=
  ∀ (c : Chan) (i : Nat) (w : Word) (f : CmdFields) (s : State),
    (∀ kon nokey, decode (.command c i w) = .ok (.nop c i kon nokey f) →
      exec (.nop c i kon nokey f) s = .next s) ∧
    (decode (.command c i w) = .ok (.keyon c i f) →
      ∃ t x, exec (.keyon c i f) s = .next t ∧ CommandApplied c i w s t x ∧
        CommandChannel s.ct f 0 .attack (s.ch c) x) ∧
    (decode (.command c i w) = .ok (.keyoff c i f) →
      ∃ t x, exec (.keyoff c i f) s = .next t ∧ CommandApplied c i w s t x ∧
        CommandChannel s.ct f (BitVec.ofInt 32 (-1)) (s.ch c).phase (s.ch c) x) ∧
    (∀ kon, decode (.command c i w) = .ok (.param c i kon f) →
      ∃ t x, exec (.param c i kon f) s = .next t ∧ CommandApplied c i w s t x ∧
        CommandChannel s.ct f (s.ch c).keycnt (s.ch c).phase (s.ch c) x)

/-- A bend interpolates between the base frequency and the target's (41_command_apply.md R235). It lies between the
two, ends included, and does not depend on an earlier bend: full magnitude plays the target, magnitude 0 the base. -/
def Obligations.BendLiesBetweenBaseAndTarget : Prop :=
  ∀ (ct : Vector Word NOTE_COUNT) (f : CmdFields) (ch : Channel), f.pbp = true →
    let x := ch.applyBend ct f
    let tf := ch.freqOf ct (if f.pbdir then ch.lastnote.toNat - 2 else min (ch.lastnote.toNat + 2) 127)
    x = { ch with bent := x.bent } ∧
    (x.bent.toNat : Int) = ch.base.toNat + tdiv (((tf : Int) - ch.base.toNat) * f.pbmag.toNat) BEND_MAX ∧
    min ch.base.toNat tf ≤ x.bent.toNat ∧ x.bent.toNat ≤ max ch.base.toNat tf ∧
    (f.pbmag.toNat = 63 → x.bent.toNat = tf) ∧ (f.pbmag.toNat = 0 → x.bent = ch.base)

/-! ### Envelope and fade -/

/-- Attack and Decay (42_envelope.md R251, R252). -/
def Obligations.AttackAndDecaySteps : Prop :=
  ∀ ch : Channel,
    (ch.phase ≠ .sr → ch.keycnt.toInt = -1 → ch.stepEnvelope = { ch with phase := .sr }) ∧
    (ch.phase = .attack → ch.keycnt.toInt ≠ -1 →
      (GAIN_MAX ≤ ch.gain.toNat + ch.atk.toNat →
        ch.stepEnvelope = { ch with gain := BitVec.ofNat 16 GAIN_MAX, phase := .decay }) ∧
      (ch.gain.toNat + ch.atk.toNat < GAIN_MAX →
        ch.stepEnvelope = { ch with gain := BitVec.ofNat 16 (ch.gain.toNat + ch.atk.toNat) })) ∧
    (ch.phase = .decay → ch.keycnt.toInt ≠ -1 →
      ∃ g : BitVec 16, (g.toNat : Int) = max ((ch.gain.toNat : Int) - ch.dec.toNat) ch.sus.toNat ∧
        (g = ch.sus → ch.stepEnvelope = { ch with gain := g, phase := .sr, keycnt := 1 }) ∧
        (g ≠ ch.sus → ch.stepEnvelope = { ch with gain := g }))

/-- Sustain/Release, with the key held and with the key off (42_envelope.md R253, R254). -/
def Obligations.SustainAndReleaseSteps : Prop :=
  ∀ ch : Channel, ch.phase = .sr →
    (0 ≤ ch.keycnt.toInt →
      ((ch.sus.toNat : Int) - ch.keycnt.toInt * ch.fade.toNat < 0 →
        ch.stepEnvelope = { ch with gain := BitVec.ofNat 16 GAIN_SNAP_FLOOR, keycnt := BitVec.ofInt 32 (-1) }) ∧
      (0 ≤ (ch.sus.toNat : Int) - ch.keycnt.toInt * ch.fade.toNat →
        ∃ (g : BitVec 16) (k : Word), ch.stepEnvelope = { ch with gain := g, keycnt := k } ∧
          (g.toNat : Int) = ch.sus.toNat - ch.keycnt.toInt * ch.fade.toNat ∧
          k.toInt = min (ch.keycnt.toInt + 1) (2 ^ 31 - 1))) ∧
    (ch.keycnt.toInt = -1 →
      ∃ g : BitVec 16, ch.stepEnvelope = { ch with gain := g } ∧
        g.toNat = if ch.sus.toNat < ch.gain.toNat then ch.gain.toNat - ch.dec.toNat
          else ch.gain.toNat - ch.rel.toNat)

/-- The envelope step keeps the gain in `0 … GAIN_MAX` (42_envelope.md R255) and changes the phase at the documented
boundaries only (R256); it writes the gain, the phase and the key counter alone (R250). -/
def Obligations.EnvelopeBoundsGainAndPhaseChanges : Prop :=
  ∀ ch : Channel,
    let x := ch.stepEnvelope
    x = { ch with gain := x.gain, phase := x.phase, keycnt := x.keycnt } ∧
    (ch.gain.toNat ≤ GAIN_MAX → ch.sus.toNat ≤ GAIN_MAX → x.gain.toNat ≤ GAIN_MAX) ∧
    (x.phase = ch.phase ∨
      (ch.phase = .attack ∧ x.phase = .decay ∧ x.gain.toNat = GAIN_MAX) ∨
      (ch.phase = .decay ∧ x.phase = .sr ∧ x.gain = ch.sus) ∨
      (ch.phase ≠ .sr ∧ x.phase = .sr ∧ ch.keycnt.toInt = -1))

/-- Release (42_envelope.md R258): with the key off the gain never rises; with `rel > 0`, and `dec > 0` or the gain at
most `sus`, it is 0 after at most `gain + 1` steps. -/
def Obligations.ReleaseFallsToZero : Prop :=
  ∀ ch : Channel, ch.keycnt.toInt = -1 →
    (∀ n, (Channel.stepEnvelope^[n + 1] ch).gain.toNat ≤ (Channel.stepEnvelope^[n] ch).gain.toNat) ∧
    (0 < ch.rel.toNat → 0 < ch.dec.toNat ∨ ch.gain.toNat ≤ ch.sus.toNat →
      ∀ n, ch.gain.toNat + 1 ≤ n → (Channel.stepEnvelope^[n] ch).gain.toNat = 0)

/-- The fade (42_envelope.md R259): one unit toward the target per step, none past it; the target is reached after
exactly the distance in steps. -/
def Obligations.FadeRampsToTheTarget : Prop :=
  ∀ ch : Channel,
    (ch.svol.toNat < ch.stgt.toNat →
      ∃ v : BitVec 7, v.toNat = ch.svol.toNat + 1 ∧ ch.fadeStep = { ch with svol := v }) ∧
    (ch.stgt.toNat < ch.svol.toNat →
      ∃ v : BitVec 7, v.toNat + 1 = ch.svol.toNat ∧ ch.fadeStep = { ch with svol := v }) ∧
    (ch.svol.toNat = ch.stgt.toNat → ch.fadeStep = ch) ∧
    ∀ n, (Channel.fadeStep^[n] ch).svol = ch.stgt ↔
      ch.svol.toNat ≤ ch.stgt.toNat + n ∧ ch.stgt.toNat ≤ ch.svol.toNat + n

/-! ### Oscillator, noise and mix -/

/-- The phase step is the nearest integer to `f · WT_LEN / (F_S · 2^16)`, ties away from zero, and the position advances
by it modulo `WT_LEN`, backwards for a negative step (43_oscillator_gain.md R275, R276). -/
def Obligations.PhaseStepIsNearestAndWraps : Prop :=
  ∀ ch : Channel,
    let p : Int := ((ch.bent.toNat : Int) + ch.detune.toInt) * WT_LEN
    let q : Int := (F_S : Int) * 2 ^ 16
    let e := ch.phaseStep * q - p
    2 * e ≤ q ∧ -q ≤ 2 * e ∧ (2 * e = q → 0 < p) ∧ (2 * e = -q → p < 0) ∧
    ∃ pos : Fin WT_LEN, ch.advancePhase = { ch with pos := pos } ∧
      (pos.val : Int) = (ch.pos.val + ch.phaseStep) % WT_LEN

/-- The noise step is a bijection on 15-bit values that maps 0 to 0, so a nonzero register stays nonzero
(43_oscillator_gain.md R281, 10_state.md R38). The taps, the shift direction and the output bit are the spec's general
knowledge, not its source's (assumption log entry 13). -/
def Obligations.NoiseStepPermutesTheRegister : Prop :=
  Function.Bijective lfsrStep ∧ (∀ r, lfsrStep r = 0 ↔ r = 0) ∧
  ∀ (r : BitVec LFSR_BITS) (k : Nat), (lfsrStep r).getLsbD k =
    if k < 14 then r.getLsbD (k + 1) else if k = 14 then r.getLsbD 0 ^^ r.getLsbD 1 else false

/-- A channel's contribution and the mix (43_oscillator_gain.md R284, R285; 46_render.md R347, R349): the three
truncating divisions, their bounds, full scale exact, and the clamp of the sum, which never wraps. -/
def Obligations.ContributionsAndMixStayInRange : Prop :=
  (∀ (wt : Vector (Vector Sample WT_LEN) NUM_SLOTS) (ch : Channel),
    (ch.contrib wt =
      let g1 := tdiv (ch.sample wt * ch.gain.toNat) GAIN_MAX
      let g2 := tdiv (g1 * ch.nvol.toNat * ch.gvol.toNat) (127 * 127)
      tdiv (g2 * ch.svol.toNat) 127) ∧
    (ch.sample wt =
      match ch.gensel with
      | .noise => if ch.lfsr.getLsbD 0 = false then (NOISE_AMP : Int) else -NOISE_AMP
      | .slot k => (wt[k][ch.pos]).toInt) ∧
    (ch.gain.toNat ≤ GAIN_MAX → ((tdiv (ch.sample wt * ch.gain.toNat) GAIN_MAX).natAbs ≤ 32768) ∧
      (ch.sample wt * ch.gain.toNat).natAbs ≤ 2 ^ 30) ∧
    (ch.gain.toNat = GAIN_MAX → tdiv (ch.sample wt * ch.gain.toNat) GAIN_MAX = ch.sample wt) ∧
    (ch.gain.toNat = 0 → tdiv (ch.sample wt * ch.gain.toNat) GAIN_MAX = 0) ∧
    (ch.gain.toNat ≤ GAIN_MAX → -32768 ≤ ch.contrib wt ∧ ch.contrib wt ≤ 32767) ∧
    (ch.gain.toNat = GAIN_MAX → ch.nvol.toNat = 127 → ch.gvol.toNat = 127 → ch.svol.toNat = 127 →
      ch.contrib wt = ch.sample wt) ∧
    (ch.gain.toNat = 0 ∨ ch.nvol.toNat = 0 ∨ ch.gvol.toNat = 0 ∨ ch.svol.toNat = 0 → ch.contrib wt = 0)) ∧
  ∀ s : State, (∀ c : Chan, (s.ch c).gain.toNat ≤ GAIN_MAX) →
    -(NUM_CH * 32768) ≤ mix s ∧ mix s ≤ NUM_CH * 32768 ∧
    mix s = ∑ c : Chan, (s.ch c).contrib s.wt ∧
    (toSample (clamp16 (mix s))).toInt = max (-32768) (min (mix s) 32767)

/-! ### Ring and log -/

/-- Consumption and the truncating write (44_ring.md R300, R301). -/
def Obligations.RingConsumesAndTruncates : Prop :=
  ∀ ch : Channel,
    ch.consume.1 = ch.slotAt 0 ∧
    ch.consume.2 = { ch with ring := ch.consume.2.ring, head := ch.consume.2.head } ∧
    ch.consume.2.head.val = (ch.head.val + 1) % RING_CAP ∧
    (∀ j, j + 1 < RING_CAP → ch.consume.2.slotAt j = ch.slotAt (j + 1)) ∧
    ch.consume.2.slotAt (RING_CAP - 1) = 0 ∧
    ∀ (k : Nat) (w : Word), k < RING_CAP →
      ch.scheduleAndTruncate k w = { ch with ring := (ch.scheduleAndTruncate k w).ring } ∧
      ∀ j, j < RING_CAP → (ch.scheduleAndTruncate k w).slotAt j =
        if j < k then ch.slotAt j else if j = k then w else 0

/-- A word at offset `k` of a ring is the one its channel consumes at tick `t₀ + k·FI`, where `t₀` is the next
consumption tick (44_ring.md R304). -/
def Obligations.ScheduledWordIsConsumedInItsTurn : Prop :=
  ∀ (s : State) (c : Chan) (k i : Nat), k < RING_CAP →
    let t := renderFrames (s.framesToConsumption + k * FI) i s
    t.tick.toNat % FI = 0 ∧ (t.ch c).consume.1 = (s.ch c).slotAt k

/-- The fill (45_log_fill.md R316 to R322, R325): nothing for an unbound log; else a run of single advances, each over
the entry the cursor stands on, of at most `SCAN_LIMIT` advances, that ends where the rule stops it or at the limit. -/
def Obligations.FillWalksTheLogToTheWindowEnd : Prop :=
  ∀ (cur : Nat) (ch : Channel),
    (ch.bound = false → ch.fill cur = ch) ∧
    (ch.bound = true → ∃ (n : Nat) (run : Nat → Channel), n ≤ SCAN_LIMIT ∧ run 0 = ch ∧ run n = ch.fill cur ∧
      (∀ k, k < n → Channel.FillAdvances cur (run k) (run (k + 1))) ∧
      (n = SCAN_LIMIT ∨ Channel.FillStops cur (ch.fill cur)))

/-- The fill moves the cursor forward by at most `SCAN_LIMIT`, never past `2^32 − 1`, and writes nothing but the cursor
and the ring of its channel (45_log_fill.md R322, R325). -/
def Obligations.FillAdvancesTheCursorWithinLimits : Prop :=
  ∀ (cur : Nat) (ch : Channel),
    ch.fill cur = { ch with cursor := (ch.fill cur).cursor, ring := (ch.fill cur).ring } ∧
    ch.cursor.toNat ≤ (ch.fill cur).cursor.toNat ∧
    (ch.fill cur).cursor.toNat ≤ ch.cursor.toNat + SCAN_LIMIT

/-- In an active loop region one play later the fill reads the same entry exactly `E − S` ticks later (45_log_fill.md
R317, R318, R328): the period of the loop is `loop_end − loop_start`. So one examination of the fill with the cursor one
play further on, at a tick one loop span later, does to the channel what the first does: it stops where that stops,
discards what that discards, and places the same word at the same offset. -/
def Obligations.LoopRegionRepeatsWithItsSpan : Prop :=
  ∀ (ch : Channel) (p : Nat), ch.loopEn = true → ch.loopFirst.val ≤ ch.loopLast.val →
    ch.loopStart.toNat < ch.loopEnd.toNat → ch.loopFirst.val ≤ p →
    let len := ch.loopLast.val - ch.loopFirst.val + 1
    let span := ch.loopEnd.toNat - ch.loopStart.toNat
    (ch.loopFirst.val ≤ ch.effIndex p ∧ ch.effIndex p ≤ ch.loopLast.val) ∧
    (p ≤ ch.loopLast.val → ch.effIndex p = p ∧ ch.effShift p = 0) ∧
    ch.effIndex (p + len) = ch.effIndex p ∧
    ch.effShift (p + len) = ch.effShift p + span ∧
    ∀ cur : Nat, p + len < 2 ^ 32 - 1 →
      Channel.fillOnce (cur + span) { ch with cursor := BitVec.ofNat 32 (p + len) } =
        (Channel.fillOnce cur { ch with cursor := BitVec.ofNat 32 p }).map fun x =>
          { x with cursor := BitVec.ofNat 32 (x.cursor.toNat + len) }

/-! ### Render -/

/-- The checks of a render, in order; a refused render and one of no frames change nothing else (46_render.md R341,
R343). -/
def Obligations.RenderChecksInOrder : Prop :=
  ∀ (v : Word) (s : State),
    (s.rcount.toNat = 0 → exec (.wrRgo v) s = .next s) ∧
    (s.rcount.toNat ≠ 0 → s.rbase.toNat = 0 → exec (.wrRgo v) s = .next { s with status := .null }) ∧
    (s.rcount.toNat ≠ 0 → s.rbase.toNat ≠ 0 → s.rstride.toNat < frameSize s →
      exec (.wrRgo v) s = .next { s with status := .malformed }) ∧
    (s.rcount.toNat ≠ 0 → s.rbase.toNat ≠ 0 → frameSize s ≤ s.rstride.toNat →
      OUT_BYTES < s.rbase.toNat + (s.rcount.toNat - 1) * s.rstride.toNat + frameSize s →
      exec (.wrRgo v) s = .next { s with status := .range }) ∧
    frameSize s = if s.rstereo then 4 else 2

/-- A paused render writes silent frames and changes no other state but the status (46_render.md R342). -/
def Obligations.PausedRenderWritesSilence : Prop :=
  ∀ (v : Word) (s : State), s.renderAccepted → s.pause = true →
    ∃ t, exec (.wrRgo v) s = .next t ∧ t = { s with status := .ok, out := t.out } ∧
      (∀ i, i < s.rcount.toNat →
        SampleAt t.out s.rbig (frameAddr s i) 0 ∧ (s.rstereo = true → SampleAt t.out s.rbig (frameAddr s i + 2) 0)) ∧
      ∀ a, ¬ InFrames s s.rcount.toNat a → Memory.read t.out a = Memory.read s.out a

/-- What a render that runs may change (46_render.md R353), its tick advance (R348) and its end (R352). -/
def Obligations.RenderChangesOnlyPlaybackState : Prop :=
  ∀ (v : Word) (s : State), s.renderAccepted → s.pause = false →
    ∃ t, exec (.wrRgo v) s = .next t ∧
      t = { s with tick := t.tick, status := .ok, chans := t.chans, out := t.out, trace := t.trace } ∧
      t.tick.toNat = (s.tick.toNat + s.rcount.toNat) % 2 ^ 32 ∧ s.trace <+: t.trace ∧
      ∀ c : Chan, t.ch c = { s.ch c with
        ring := (t.ch c).ring, head := (t.ch c).head, cursor := (t.ch c).cursor, keycnt := (t.ch c).keycnt,
        phase := (t.ch c).phase, gain := (t.ch c).gain, nvol := (t.ch c).nvol, base := (t.ch c).base,
        bent := (t.ch c).bent, lastnote := (t.ch c).lastnote, svol := (t.ch c).svol, pos := (t.ch c).pos,
        lfsr := (t.ch c).lfsr }

/-- The output of a render that runs (46_render.md R344 to R351): frame `i` holds the clamped mix of the channels after
that frame's consumption and sample steps, twice if stereo, in the render's byte order; every byte of no frame reads as
before. -/
def Obligations.RenderWritesTheMixOfEveryFrame : Prop :=
  ∀ (v : Word) (s : State), s.renderAccepted → s.pause = false →
    ∃ t, exec (.wrRgo v) s = .next t ∧
      (∀ i, i < s.rcount.toNat →
        let u := (consumeAll i (renderFrames i 0 (s.mapCh (Channel.fill s.tick.toNat)))).mapCh Channel.frameStep
        let x : Sample := BitVec.ofInt 16 (clamp (∑ c : Chan, (u.ch c).contrib s.wt) (-32768) 32767)
        SampleAt t.out s.rbig (s.rbase.toNat + i * s.rstride.toNat) x ∧
        (s.rstereo = true → SampleAt t.out s.rbig (s.rbase.toNat + i * s.rstride.toNat + 2) x)) ∧
      ∀ a, ¬ InFrames s s.rcount.toNat a → Memory.read t.out a = Memory.read s.out a

/-- Over a render that runs, a noise channel steps its register once per frame and no other channel steps its own
(43_oscillator_gain.md R282), and every head advances once per consumption tick (44_ring.md R307). -/
def Obligations.RenderCountsFramesInHeadAndNoise : Prop :=
  ∀ (v : Word) (s : State), s.renderAccepted → s.pause = false →
    ∃ t, exec (.wrRgo v) s = .next t ∧ ∀ c : Chan,
      ((s.ch c).gensel = .noise → (t.ch c).lfsr = lfsrStep^[s.rcount.toNat] (s.ch c).lfsr) ∧
      ((s.ch c).gensel ≠ .noise → (t.ch c).lfsr = (s.ch c).lfsr) ∧
      (t.ch c).head.val = ((s.ch c).head.val + s.consumptionsIn s.rcount.toNat) % RING_CAP

/-- A render may be split (46_render.md R354): with no log bound, a render of `m` frames and then one of `n` frames
further on give the channels, the tick and the output of one render of `m + n` frames. -/
def Obligations.SplitRenderEqualsWholeRender : Prop :=
  ∀ (v : Word) (s : State) (m n : Nat), 0 < m → 0 < n → s.rcount.toNat = m + n → s.renderAccepted →
    s.pause = false → (∀ c : Chan, (s.ch c).bound = false) →
    ∃ whole first second,
      exec (.wrRgo v) s = .next whole ∧
      exec (.wrRgo v) { s with rcount := BitVec.ofNat 32 m } = .next first ∧
      exec (.wrRgo v)
        { first with
          rcount := BitVec.ofNat 32 n
          rbase := BitVec.ofNat 32 (s.rbase.toNat + m * s.rstride.toNat) } = .next second ∧
      second.chans = whole.chans ∧ second.tick = whole.tick ∧ second.out = whole.out

/-! ### Rules of the whole machine -/

/-- The observer stream has no effect: from two states that differ in it alone, an instruction, and a step, give two
states that differ in it alone (60_exceptions.md R436). -/
def Obligations.ObserverStreamHasNoEffect : Prop :=
  (∀ (i : Instr) (s u t : State), s.SameButTrace u → exec i s = .next t →
    ∃ w, exec i u = .next w ∧ t.SameButTrace w) ∧
  ∀ s u t : State, s.SameButTrace u → step s = .next t → ∃ w, step u = .next w ∧ t.SameButTrace w

/-- Which instructions can write which store (20_memory.md R100, R110, R111; 10_state.md R32, R52; 44_ring.md R305): the
wavetables, the tick, the output memory, the three small tables, the logs, the near-term rings and the observer
stream. -/
def Obligations.StoresAreWrittenOnlyByTheirOperations : Prop :=
  ∀ (i : Instr) (s t : State), exec i s = .next t →
    (t.wt ≠ s.wt → (∃ v, i = .wrWtdata v) ∨ (∃ v, i = .wrGcmd v) ∨ (∃ v, i = .wrCtrl v ∧ v.getLsbD 1 = true) ∨
      ∃ v, decode (.generator v) = .ok i) ∧
    (t.tick ≠ s.tick → (∃ v, i = .wrTick v) ∨ (∃ v, i = .wrRgo v) ∨ (∃ v, i = .wrCtrl v ∧ v.getLsbD 1 = true)) ∧
    (t.out ≠ s.out → ∃ v, i = .wrRgo v) ∧
    (t.ct ≠ s.ct → ∃ v, i = .wrCtdata v) ∧ (t.hc ≠ s.hc → ∃ v, i = .wrHcdata v) ∧
    (t.tap ≠ s.tap → ∃ v, i = .wrTapdata v) ∧
    (∀ c : Chan, (t.ch c).log ≠ (s.ch c).log →
      (∃ v, i = .wrChAppcmd c v) ∨ ∃ v, i = .wrChLogctrl c v ∧ v.getLsbD 2 = true) ∧
    (∀ c : Chan, (t.ch c).ring ≠ (s.ch c).ring ∨ (t.ch c).head ≠ (s.ch c).head →
      (∃ v, i = .wrChSchcmd c v ∧ (t.ch c).head = (s.ch c).head) ∨ (∃ v, i = .wrRgo v) ∨
        ∃ v, i = .wrCtrl v ∧ v.getLsbD 1 = true) ∧
    (t.trace ≠ s.trace → (∃ v, i = .wrRgo v) ∨
      ∃ c k f, i = .keyon c k f ∨ i = .keyoff c k f ∨ ∃ kon, i = .param c k kon f)

/-- An operation of one channel stays in it: a write or a read of a register of channel `c`, and a command applied to
channel `c`, leave every other channel, the tables, the output memory, the tick, the pause bit, the render registers
and the ports' pointers as they were. -/
def Obligations.ChannelOperationsStayInTheirChannel : Prop :=
  ∀ (c : Chan) (i : Instr) (s t : State),
    (∃ r v, i = CReg.wr c v r) ∨ (∃ r, i = CReg.rd c r) ∨ (∃ k w, decode (.command c k w) = .ok i) →
    exec i s = .next t →
    t = { s with chans := t.chans, status := t.status, rdata := t.rdata, trace := t.trace } ∧
    ∀ d, d ≠ c → t.ch d = s.ch d

end Statements
end

