-- ==== Sys2Proof/Laws/State.lean ====
section
/-!
SUPPORT. One lemma per field per named update of State, true by unfolding, and what a channel is after a channel is
replaced, after INIT and after power-on. Later proofs cite these and unfold no record update.
-/

namespace Sys2Proof.Machine

open Config

variable {P : Params}

section Done

variable (s : State P)

@[simp] theorem done_tick : (done s).tick = s.tick := rfl
@[simp] theorem done_pause : (done s).pause = s.pause := rfl
@[simp] theorem done_status : (done s).status = Status.ok := rfl
@[simp] theorem done_rbase : (done s).rbase = s.rbase := rfl
@[simp] theorem done_rcount : (done s).rcount = s.rcount := rfl
@[simp] theorem done_rstride : (done s).rstride = s.rstride := rfl
@[simp] theorem done_rstereo : (done s).rstereo = s.rstereo := rfl
@[simp] theorem done_rbig : (done s).rbig = s.rbig := rfl
@[simp] theorem done_garg0 : (done s).garg0 = s.garg0 := rfl
@[simp] theorem done_garg1 : (done s).garg1 = s.garg1 := rfl
@[simp] theorem done_wtSlot : (done s).wtSlot = s.wtSlot := rfl
@[simp] theorem done_wtIdx : (done s).wtIdx = s.wtIdx := rfl
@[simp] theorem done_hcIdx : (done s).hcIdx = s.hcIdx := rfl
@[simp] theorem done_ctIdx : (done s).ctIdx = s.ctIdx := rfl
@[simp] theorem done_tapIdx : (done s).tapIdx = s.tapIdx := rfl
@[simp] theorem done_chans : (done s).chans = s.chans := rfl
@[simp] theorem done_wt : (done s).wt = s.wt := rfl
@[simp] theorem done_ct : (done s).ct = s.ct := rfl
@[simp] theorem done_hc : (done s).hc = s.hc := rfl
@[simp] theorem done_tap : (done s).tap = s.tap := rfl
@[simp] theorem done_out : (done s).out = s.out := rfl
@[simp] theorem done_trace : (done s).trace = s.trace := rfl
@[simp] theorem done_pending : (done s).pending = s.pending := rfl
@[simp] theorem done_rdata : (done s).rdata = s.rdata := rfl
@[simp] theorem done_ch (d : Fin P.numCh) : (done s).ch d = s.ch d := rfl

end Done

section Fail

variable (k : Status) (s : State P)

@[simp] theorem fail_tick : (fail k s).tick = s.tick := rfl
@[simp] theorem fail_pause : (fail k s).pause = s.pause := rfl
@[simp] theorem fail_status : (fail k s).status = k := rfl
@[simp] theorem fail_rbase : (fail k s).rbase = s.rbase := rfl
@[simp] theorem fail_rcount : (fail k s).rcount = s.rcount := rfl
@[simp] theorem fail_rstride : (fail k s).rstride = s.rstride := rfl
@[simp] theorem fail_rstereo : (fail k s).rstereo = s.rstereo := rfl
@[simp] theorem fail_rbig : (fail k s).rbig = s.rbig := rfl
@[simp] theorem fail_garg0 : (fail k s).garg0 = s.garg0 := rfl
@[simp] theorem fail_garg1 : (fail k s).garg1 = s.garg1 := rfl
@[simp] theorem fail_wtSlot : (fail k s).wtSlot = s.wtSlot := rfl
@[simp] theorem fail_wtIdx : (fail k s).wtIdx = s.wtIdx := rfl
@[simp] theorem fail_hcIdx : (fail k s).hcIdx = s.hcIdx := rfl
@[simp] theorem fail_ctIdx : (fail k s).ctIdx = s.ctIdx := rfl
@[simp] theorem fail_tapIdx : (fail k s).tapIdx = s.tapIdx := rfl
@[simp] theorem fail_chans : (fail k s).chans = s.chans := rfl
@[simp] theorem fail_wt : (fail k s).wt = s.wt := rfl
@[simp] theorem fail_ct : (fail k s).ct = s.ct := rfl
@[simp] theorem fail_hc : (fail k s).hc = s.hc := rfl
@[simp] theorem fail_tap : (fail k s).tap = s.tap := rfl
@[simp] theorem fail_out : (fail k s).out = s.out := rfl
@[simp] theorem fail_trace : (fail k s).trace = s.trace := rfl
@[simp] theorem fail_pending : (fail k s).pending = s.pending := rfl
@[simp] theorem fail_rdata : (fail k s).rdata = s.rdata := rfl
@[simp] theorem fail_ch (d : Fin P.numCh) : (fail k s).ch d = s.ch d := rfl

end Fail

section SetCh

variable (s : State P) (c : Fin P.numCh) (x : Channel P)

@[simp] theorem setCh_tick : (s.setCh c x).tick = s.tick := rfl
@[simp] theorem setCh_pause : (s.setCh c x).pause = s.pause := rfl
@[simp] theorem setCh_status : (s.setCh c x).status = s.status := rfl
@[simp] theorem setCh_rbase : (s.setCh c x).rbase = s.rbase := rfl
@[simp] theorem setCh_rcount : (s.setCh c x).rcount = s.rcount := rfl
@[simp] theorem setCh_rstride : (s.setCh c x).rstride = s.rstride := rfl
@[simp] theorem setCh_rstereo : (s.setCh c x).rstereo = s.rstereo := rfl
@[simp] theorem setCh_rbig : (s.setCh c x).rbig = s.rbig := rfl
@[simp] theorem setCh_garg0 : (s.setCh c x).garg0 = s.garg0 := rfl
@[simp] theorem setCh_garg1 : (s.setCh c x).garg1 = s.garg1 := rfl
@[simp] theorem setCh_wtSlot : (s.setCh c x).wtSlot = s.wtSlot := rfl
@[simp] theorem setCh_wtIdx : (s.setCh c x).wtIdx = s.wtIdx := rfl
@[simp] theorem setCh_hcIdx : (s.setCh c x).hcIdx = s.hcIdx := rfl
@[simp] theorem setCh_ctIdx : (s.setCh c x).ctIdx = s.ctIdx := rfl
@[simp] theorem setCh_tapIdx : (s.setCh c x).tapIdx = s.tapIdx := rfl
@[simp] theorem setCh_wt : (s.setCh c x).wt = s.wt := rfl
@[simp] theorem setCh_ct : (s.setCh c x).ct = s.ct := rfl
@[simp] theorem setCh_hc : (s.setCh c x).hc = s.hc := rfl
@[simp] theorem setCh_tap : (s.setCh c x).tap = s.tap := rfl
@[simp] theorem setCh_out : (s.setCh c x).out = s.out := rfl
@[simp] theorem setCh_trace : (s.setCh c x).trace = s.trace := rfl
@[simp] theorem setCh_pending : (s.setCh c x).pending = s.pending := rfl
@[simp] theorem setCh_rdata : (s.setCh c x).rdata = s.rdata := rfl

end SetCh

section ModCh

variable (s : State P) (c : Fin P.numCh) (f : Channel P → Channel P)

@[simp] theorem modCh_tick : (s.modCh c f).tick = s.tick := rfl
@[simp] theorem modCh_pause : (s.modCh c f).pause = s.pause := rfl
@[simp] theorem modCh_status : (s.modCh c f).status = s.status := rfl
@[simp] theorem modCh_rbase : (s.modCh c f).rbase = s.rbase := rfl
@[simp] theorem modCh_rcount : (s.modCh c f).rcount = s.rcount := rfl
@[simp] theorem modCh_rstride : (s.modCh c f).rstride = s.rstride := rfl
@[simp] theorem modCh_rstereo : (s.modCh c f).rstereo = s.rstereo := rfl
@[simp] theorem modCh_rbig : (s.modCh c f).rbig = s.rbig := rfl
@[simp] theorem modCh_garg0 : (s.modCh c f).garg0 = s.garg0 := rfl
@[simp] theorem modCh_garg1 : (s.modCh c f).garg1 = s.garg1 := rfl
@[simp] theorem modCh_wtSlot : (s.modCh c f).wtSlot = s.wtSlot := rfl
@[simp] theorem modCh_wtIdx : (s.modCh c f).wtIdx = s.wtIdx := rfl
@[simp] theorem modCh_hcIdx : (s.modCh c f).hcIdx = s.hcIdx := rfl
@[simp] theorem modCh_ctIdx : (s.modCh c f).ctIdx = s.ctIdx := rfl
@[simp] theorem modCh_tapIdx : (s.modCh c f).tapIdx = s.tapIdx := rfl
@[simp] theorem modCh_wt : (s.modCh c f).wt = s.wt := rfl
@[simp] theorem modCh_ct : (s.modCh c f).ct = s.ct := rfl
@[simp] theorem modCh_hc : (s.modCh c f).hc = s.hc := rfl
@[simp] theorem modCh_tap : (s.modCh c f).tap = s.tap := rfl
@[simp] theorem modCh_out : (s.modCh c f).out = s.out := rfl
@[simp] theorem modCh_trace : (s.modCh c f).trace = s.trace := rfl
@[simp] theorem modCh_pending : (s.modCh c f).pending = s.pending := rfl
@[simp] theorem modCh_rdata : (s.modCh c f).rdata = s.rdata := rfl

end ModCh

section MapCh

variable (s : State P) (f : Channel P → Channel P)

@[simp] theorem mapCh_tick : (s.mapCh f).tick = s.tick := rfl
@[simp] theorem mapCh_pause : (s.mapCh f).pause = s.pause := rfl
@[simp] theorem mapCh_status : (s.mapCh f).status = s.status := rfl
@[simp] theorem mapCh_rbase : (s.mapCh f).rbase = s.rbase := rfl
@[simp] theorem mapCh_rcount : (s.mapCh f).rcount = s.rcount := rfl
@[simp] theorem mapCh_rstride : (s.mapCh f).rstride = s.rstride := rfl
@[simp] theorem mapCh_rstereo : (s.mapCh f).rstereo = s.rstereo := rfl
@[simp] theorem mapCh_rbig : (s.mapCh f).rbig = s.rbig := rfl
@[simp] theorem mapCh_garg0 : (s.mapCh f).garg0 = s.garg0 := rfl
@[simp] theorem mapCh_garg1 : (s.mapCh f).garg1 = s.garg1 := rfl
@[simp] theorem mapCh_wtSlot : (s.mapCh f).wtSlot = s.wtSlot := rfl
@[simp] theorem mapCh_wtIdx : (s.mapCh f).wtIdx = s.wtIdx := rfl
@[simp] theorem mapCh_hcIdx : (s.mapCh f).hcIdx = s.hcIdx := rfl
@[simp] theorem mapCh_ctIdx : (s.mapCh f).ctIdx = s.ctIdx := rfl
@[simp] theorem mapCh_tapIdx : (s.mapCh f).tapIdx = s.tapIdx := rfl
@[simp] theorem mapCh_wt : (s.mapCh f).wt = s.wt := rfl
@[simp] theorem mapCh_ct : (s.mapCh f).ct = s.ct := rfl
@[simp] theorem mapCh_hc : (s.mapCh f).hc = s.hc := rfl
@[simp] theorem mapCh_tap : (s.mapCh f).tap = s.tap := rfl
@[simp] theorem mapCh_out : (s.mapCh f).out = s.out := rfl
@[simp] theorem mapCh_trace : (s.mapCh f).trace = s.trace := rfl
@[simp] theorem mapCh_pending : (s.mapCh f).pending = s.pending := rfl
@[simp] theorem mapCh_rdata : (s.mapCh f).rdata = s.rdata := rfl

end MapCh

section OutWrite

variable (a : Nat) (b : Byte) (s : State P)

@[simp] theorem outWrite_tick : (outWrite a b s).tick = s.tick := rfl
@[simp] theorem outWrite_pause : (outWrite a b s).pause = s.pause := rfl
@[simp] theorem outWrite_status : (outWrite a b s).status = s.status := rfl
@[simp] theorem outWrite_rbase : (outWrite a b s).rbase = s.rbase := rfl
@[simp] theorem outWrite_rcount : (outWrite a b s).rcount = s.rcount := rfl
@[simp] theorem outWrite_rstride : (outWrite a b s).rstride = s.rstride := rfl
@[simp] theorem outWrite_rstereo : (outWrite a b s).rstereo = s.rstereo := rfl
@[simp] theorem outWrite_rbig : (outWrite a b s).rbig = s.rbig := rfl
@[simp] theorem outWrite_garg0 : (outWrite a b s).garg0 = s.garg0 := rfl
@[simp] theorem outWrite_garg1 : (outWrite a b s).garg1 = s.garg1 := rfl
@[simp] theorem outWrite_wtSlot : (outWrite a b s).wtSlot = s.wtSlot := rfl
@[simp] theorem outWrite_wtIdx : (outWrite a b s).wtIdx = s.wtIdx := rfl
@[simp] theorem outWrite_hcIdx : (outWrite a b s).hcIdx = s.hcIdx := rfl
@[simp] theorem outWrite_ctIdx : (outWrite a b s).ctIdx = s.ctIdx := rfl
@[simp] theorem outWrite_tapIdx : (outWrite a b s).tapIdx = s.tapIdx := rfl
@[simp] theorem outWrite_chans : (outWrite a b s).chans = s.chans := rfl
@[simp] theorem outWrite_wt : (outWrite a b s).wt = s.wt := rfl
@[simp] theorem outWrite_ct : (outWrite a b s).ct = s.ct := rfl
@[simp] theorem outWrite_hc : (outWrite a b s).hc = s.hc := rfl
@[simp] theorem outWrite_tap : (outWrite a b s).tap = s.tap := rfl
@[simp] theorem outWrite_out : (outWrite a b s).out = Memory.write s.out a b := rfl
@[simp] theorem outWrite_trace : (outWrite a b s).trace = s.trace := rfl
@[simp] theorem outWrite_pending : (outWrite a b s).pending = s.pending := rfl
@[simp] theorem outWrite_rdata : (outWrite a b s).rdata = s.rdata := rfl
@[simp] theorem outWrite_ch (d : Fin P.numCh) : (outWrite a b s).ch d = s.ch d := rfl

end OutWrite

section AdvanceTick

variable (s : State P)

@[simp] theorem advanceTick_tick : (advanceTick s).tick = s.tick + 1 := rfl
@[simp] theorem advanceTick_pause : (advanceTick s).pause = s.pause := rfl
@[simp] theorem advanceTick_status : (advanceTick s).status = s.status := rfl
@[simp] theorem advanceTick_rbase : (advanceTick s).rbase = s.rbase := rfl
@[simp] theorem advanceTick_rcount : (advanceTick s).rcount = s.rcount := rfl
@[simp] theorem advanceTick_rstride : (advanceTick s).rstride = s.rstride := rfl
@[simp] theorem advanceTick_rstereo : (advanceTick s).rstereo = s.rstereo := rfl
@[simp] theorem advanceTick_rbig : (advanceTick s).rbig = s.rbig := rfl
@[simp] theorem advanceTick_garg0 : (advanceTick s).garg0 = s.garg0 := rfl
@[simp] theorem advanceTick_garg1 : (advanceTick s).garg1 = s.garg1 := rfl
@[simp] theorem advanceTick_wtSlot : (advanceTick s).wtSlot = s.wtSlot := rfl
@[simp] theorem advanceTick_wtIdx : (advanceTick s).wtIdx = s.wtIdx := rfl
@[simp] theorem advanceTick_hcIdx : (advanceTick s).hcIdx = s.hcIdx := rfl
@[simp] theorem advanceTick_ctIdx : (advanceTick s).ctIdx = s.ctIdx := rfl
@[simp] theorem advanceTick_tapIdx : (advanceTick s).tapIdx = s.tapIdx := rfl
@[simp] theorem advanceTick_chans : (advanceTick s).chans = s.chans := rfl
@[simp] theorem advanceTick_wt : (advanceTick s).wt = s.wt := rfl
@[simp] theorem advanceTick_ct : (advanceTick s).ct = s.ct := rfl
@[simp] theorem advanceTick_hc : (advanceTick s).hc = s.hc := rfl
@[simp] theorem advanceTick_tap : (advanceTick s).tap = s.tap := rfl
@[simp] theorem advanceTick_out : (advanceTick s).out = s.out := rfl
@[simp] theorem advanceTick_trace : (advanceTick s).trace = s.trace := rfl
@[simp] theorem advanceTick_pending : (advanceTick s).pending = s.pending := rfl
@[simp] theorem advanceTick_rdata : (advanceTick s).rdata = s.rdata := rfl
@[simp] theorem advanceTick_ch (d : Fin P.numCh) : (advanceTick s).ch d = s.ch d := rfl

end AdvanceTick

section InitBlock

variable (s : State P)

@[simp] theorem initBlock_tick : (initBlock s).tick = 0 := rfl
@[simp] theorem initBlock_wt : (initBlock s).wt = silentWavetables P := rfl
@[simp] theorem initBlock_pause : (initBlock s).pause = s.pause := rfl
@[simp] theorem initBlock_status : (initBlock s).status = s.status := rfl
@[simp] theorem initBlock_rbase : (initBlock s).rbase = s.rbase := rfl
@[simp] theorem initBlock_rcount : (initBlock s).rcount = s.rcount := rfl
@[simp] theorem initBlock_rstride : (initBlock s).rstride = s.rstride := rfl
@[simp] theorem initBlock_rstereo : (initBlock s).rstereo = s.rstereo := rfl
@[simp] theorem initBlock_rbig : (initBlock s).rbig = s.rbig := rfl
@[simp] theorem initBlock_garg0 : (initBlock s).garg0 = s.garg0 := rfl
@[simp] theorem initBlock_garg1 : (initBlock s).garg1 = s.garg1 := rfl
@[simp] theorem initBlock_wtSlot : (initBlock s).wtSlot = s.wtSlot := rfl
@[simp] theorem initBlock_wtIdx : (initBlock s).wtIdx = s.wtIdx := rfl
@[simp] theorem initBlock_hcIdx : (initBlock s).hcIdx = s.hcIdx := rfl
@[simp] theorem initBlock_ctIdx : (initBlock s).ctIdx = s.ctIdx := rfl
@[simp] theorem initBlock_tapIdx : (initBlock s).tapIdx = s.tapIdx := rfl
@[simp] theorem initBlock_ct : (initBlock s).ct = s.ct := rfl
@[simp] theorem initBlock_hc : (initBlock s).hc = s.hc := rfl
@[simp] theorem initBlock_tap : (initBlock s).tap = s.tap := rfl
@[simp] theorem initBlock_out : (initBlock s).out = s.out := rfl
@[simp] theorem initBlock_trace : (initBlock s).trace = s.trace := rfl
@[simp] theorem initBlock_pending : (initBlock s).pending = s.pending := rfl
@[simp] theorem initBlock_rdata : (initBlock s).rdata = s.rdata := rfl

end InitBlock

/-- A channel replaced is the channel put there. -/
@[simp] theorem ch_setCh_same (s : State P) (c : Fin P.numCh) (x : Channel P) : (s.setCh c x).ch c = x := by
  simp [State.ch, State.setCh]

/-- Replacing a channel leaves every other channel. -/
theorem ch_setCh_ne (s : State P) {c d : Fin P.numCh} (h : d ≠ c) (x : Channel P) : (s.setCh c x).ch d = s.ch d := by
  have : c.val ≠ d.val := fun e => h (Fin.ext e.symm)
  simp [State.ch, State.setCh, this]

/-- What channel `d` is after channel `c` is replaced. -/
theorem ch_setCh (s : State P) (c d : Fin P.numCh) (x : Channel P) :
    (s.setCh c x).ch d = if d = c then x else s.ch d := by
  split
  · next h => subst h; simp
  · next h => exact ch_setCh_ne s h x

@[simp] theorem ch_modCh_same (s : State P) (c : Fin P.numCh) (f : Channel P → Channel P) :
    (s.modCh c f).ch c = f (s.ch c) := by
  simp [State.modCh]

theorem ch_modCh_ne (s : State P) {c d : Fin P.numCh} (h : d ≠ c) (f : Channel P → Channel P) :
    (s.modCh c f).ch d = s.ch d := ch_setCh_ne s h _

theorem ch_modCh (s : State P) (c d : Fin P.numCh) (f : Channel P → Channel P) :
    (s.modCh c f).ch d = if d = c then f (s.ch c) else s.ch d := ch_setCh s c d _

@[simp] theorem ch_mapCh (s : State P) (f : Channel P → Channel P) (c : Fin P.numCh) :
    (s.mapCh f).ch c = f (s.ch c) := by
  simp [State.ch, State.mapCh]

/-- INIT leaves of each channel what `Channel.afterInit` says (47_host_ops.md R371). -/
@[simp] theorem ch_initBlock (s : State P) (c : Fin P.numCh) : (initBlock s).ch c = (s.ch c).afterInit := by
  simp [State.ch, initBlock]

/-- Every channel of a block powered on has the defaults (70_reset_and_hazards.md R453). -/
@[simp] theorem ch_atPowerOn (c : Fin P.numCh) : (State.atPowerOn P).ch c = Channel.reset P := by
  simp [State.ch, State.atPowerOn]

@[simp] theorem ch_reset (c : Chan) : State.reset.ch c = Channel.reset := ch_atPowerOn (P := lsg) c

/-- Every sample of the silent wavetables is 0 (10_state.md R48). -/
theorem silentWavetables_sample (k : Fin P.numSlots) (i : Fin P.wtLen) : (silentWavetables P)[k][i] = 0 := by
  simp [silentWavetables]

/-- Two channel vectors with the same channels are the same. -/
theorem chans_ext {u v : Vector (Channel P) P.numCh} (h : ∀ c : Fin P.numCh, u[c] = v[c]) : u = v := by
  apply Vector.ext
  intro k hk
  exact h ⟨k, hk⟩

/-- Writing a channel back changes nothing. -/
@[simp] theorem setCh_ch (s : State P) (c : Fin P.numCh) : s.setCh c (s.ch c) = s := by
  have : s.chans.set c (s.ch c) = s.chans := chans_ext fun d => by
    have := ch_setCh s c d (s.ch c)
    simp only [State.ch, State.setCh] at this
    rw [show (s.chans.set c (s.ch c))[d] = _ from this]
    split
    · next h => subst h; rfl
    · rfl
  simp [State.setCh, this]

/-- An accepted write to one channel, as the statements say it. -/
theorem channelWritten_modCh (c : Chan) (f : Channel → Channel) (s : State) :
    ChannelWritten c s (done (s.modCh c f)) (f (s.ch c)) :=
  ⟨rfl, by simp, fun _ h => by simp [ch_modCh_ne s h]⟩

end Sys2Proof.Machine
end

