-- ==== Sys2Proof/Laws/Builds.lean ====
section
/-!
SUPPORT. The machine of the build `lsg` is the machine the host reads, so that what holds of every build holds of it.
-/

namespace Sys2Proof.Machine

/-- At the build of the LSG core the dispatch of every build is `exec`. -/
theorem execIn_lsg (i : Instr) (s : State) : execIn i s = exec i s := by cases i <;> rfl

/-- At the build of the LSG core the step of every build is `step`. -/
theorem stepIn_lsg (s : State) : stepIn s = step s := by
  have : execIn = exec := funext fun i => funext fun s => execIn_lsg i s
  unfold stepIn step
  rw [this]

/-- The machine built with the values of 00_scope.md R6 is the machine the host reads. -/
theorem machineOf_lsg : machineOf lsg = core := by
  have : (stepIn : State → Result) = step := funext stepIn_lsg
  unfold machineOf core
  rw [this]
  rfl

end Sys2Proof.Machine
end

