-- ==== Sys2Proof/Laws/Ring.lean ====
section
/-!
SUPPORT. The ring of a channel by offsets from the head: what consumption and the truncating write leave at each offset.
-/

namespace Sys2Proof.Machine

open Config

theorem slotAt_eq (ch : Channel) (j : Nat) :
    ch.slotAt j = ch.ring[(ch.head.val + j) % RING_CAP]'(Nat.mod_lt _ (by decide)) := rfl

theorem ringOffset_lt (ch : Channel) (j : Fin RING_CAP) : ch.ringOffset j < RING_CAP := Nat.mod_lt _ (by decide)

/-- The offset of the slot at offset `j`. -/
theorem ringOffset_slot (ch : Channel) {j : Nat} (h : j < RING_CAP) :
    ch.ringOffset ⟨(ch.head.val + j) % RING_CAP, Nat.mod_lt _ (by decide)⟩ = j := by
  have := ch.head.isLt
  simp only [Channel.ringOffset, RING_CAP] at *
  omega

/-- Every array index is the slot at its offset. -/
theorem slotAt_ringOffset (ch : Channel) (j : Fin RING_CAP) : ch.slotAt (ch.ringOffset j) = ch.ring[j] := by
  have h1 := ch.head.isLt
  have h2 := j.isLt
  rw [slotAt_eq]
  congr 1
  simp only [Channel.ringOffset, RING_CAP] at *
  omega

/-- Two rings with the same head and the same slots by offset are the same. -/
theorem ring_ext {x y : Channel} (hh : x.head = y.head) (h : ∀ j, j < RING_CAP → x.slotAt j = y.slotAt j) :
    x.ring = y.ring := by
  apply Vector.ext
  intro k hk
  have ho : x.ringOffset ⟨k, hk⟩ = y.ringOffset ⟨k, hk⟩ := by simp only [Channel.ringOffset, hh]
  have := h _ (ringOffset_lt x ⟨k, hk⟩)
  rw [slotAt_ringOffset, ho, slotAt_ringOffset] at this
  exact this

/-- The slots after a truncating write (44_ring.md R301). -/
theorem slotAt_scheduleAndTruncate (ch : Channel) (k : Nat) (w : Word) {j : Nat} (h : j < RING_CAP) :
    (ch.scheduleAndTruncate k w).slotAt j = if j < k then ch.slotAt j else if j = k then w else 0 := by
  rw [slotAt_eq]
  simp only [Channel.scheduleAndTruncate, Vector.getElem_ofFn]
  rw [ringOffset_slot ch h]
  rfl

@[simp] theorem scheduleAndTruncate_eq (ch : Channel) (k : Nat) (w : Word) :
    ch.scheduleAndTruncate k w = { ch with ring := (ch.scheduleAndTruncate k w).ring } := rfl

/-- A truncating write keeps a property of ring words that the empty word has. -/
theorem scheduleAndTruncate_words {P : Word → Prop} {ch : Channel} (hz : P 0) {w : Word} (hw : P w)
    (h : ∀ j : Fin RING_CAP, P ch.ring[j]) (k : Nat) (j : Fin RING_CAP) :
    P (ch.scheduleAndTruncate k w).ring[j] := by
  have : (ch.scheduleAndTruncate k w).ring[j] =
      if ch.ringOffset j < k then ch.ring[j] else if ch.ringOffset j = k then w else 0 := by
    simp [Channel.scheduleAndTruncate]
  rw [this]
  split
  · exact h j
  · split <;> assumption

/-! ### Consumption (44_ring.md R300) -/

theorem consume_word (ch : Channel) : ch.consume.1 = ch.slotAt 0 := by
  have := ch.head.isLt
  rw [slotAt_eq]
  simp only [Channel.consume, Nat.add_zero, Nat.mod_eq_of_lt this]
  rfl

theorem consume_eq (ch : Channel) :
    ch.consume.2 = { ch with ring := ch.consume.2.ring, head := ch.consume.2.head } := rfl

theorem consume_head (ch : Channel) : ch.consume.2.head.val = (ch.head.val + 1) % RING_CAP := rfl

/-- After a consumption the slot at offset `j + 1` is at offset `j`, and the last one is empty. -/
theorem slotAt_consume (ch : Channel) {j : Nat} (h : j < RING_CAP) :
    ch.consume.2.slotAt j = if j + 1 < RING_CAP then ch.slotAt (j + 1) else 0 := by
  have hh : ch.head.val < 64 := ch.head.isLt
  have h' : j < 64 := h
  have : ch.consume.2.slotAt j =
      (ch.ring.set ch.head 0)[((ch.head.val + 1) % RING_CAP + j) % RING_CAP]'(Nat.mod_lt _ (by decide)) := rfl
  rw [this, Vector.getElem_set, slotAt_eq]
  simp only [RING_CAP]
  split
  · next e => rw [if_neg (by omega)]
  · next e =>
    rw [if_pos (by omega)]
    congr 1
    omega

/-- Consumption keeps a property of ring words that the empty word has. -/
theorem consume_words {P : Word → Prop} {ch : Channel} (hz : P 0) (h : ∀ j : Fin RING_CAP, P ch.ring[j])
    (j : Fin RING_CAP) : P ch.consume.2.ring[j] := by
  have : ch.consume.2.ring[j] = if ch.head.val = j.val then 0 else ch.ring[j] := by
    simp [Channel.consume, Vector.getElem_set]
  rw [this]
  split
  · exact hz
  · exact h j

theorem consume_word_of {P : Word → Prop} {ch : Channel} (h : ∀ j : Fin RING_CAP, P ch.ring[j]) :
    P ch.consume.1 := h ch.head

end Sys2Proof.Machine
end

