-- ==== Sys2Proof/Laws/Log.lean ====
section
/-!
SUPPORT. The fill: what one examination and what a whole fill write, and the entry a cursor value stands on as the
statements say it.
-/

namespace Sys2Proof.Machine

open Config

/-- One examination of the fill, in one equation (45_log_fill.md R319). -/
theorem fillOnce_eq_some {cur : Nat} {ch x : Channel} (h : ch.fillOnce cur = some x) :
    ∃ (entry : LogEntry) (t : Nat), ch.cursor.toNat ≠ cursorMax ∧
      ch.log[ch.effIndex ch.cursor.toNat]? = some entry ∧
      t = entry.tick.toNat + ch.effShift ch.cursor.toNat ∧ t < windowEnd lsg cur ∧
      x = { ch with
        cursor := ch.cursor + 1
        ring := if cur ≤ t then (ch.scheduleAndTruncate ((t - cur) / FI) entry.cmd).ring else ch.ring } := by
  unfold Channel.fillOnce at h
  simp only at h
  split at h
  · exact absurd h (Option.some_ne_none x).symm
  · next hc =>
    split at h
    · exact absurd h (Option.some_ne_none x).symm
    · next entry he =>
      split at h
      · exact absurd h (Option.some_ne_none x).symm
      · next hw =>
        refine ⟨entry, _, hc, he, rfl, by omega, ?_⟩
        have h := (Option.some.inj h).symm
        rw [h]
        generalize entry.tick.toNat + ch.effShift ch.cursor.toNat = t
        split
        · rw [scheduleAndTruncate_eq]
        · rfl

/-- The fill writes the cursor and the ring alone (45_log_fill.md R319, R323). -/
theorem fillUpTo_eq (cur n : Nat) (ch : Channel) :
    Channel.fillUpTo cur n ch =
      { ch with cursor := (Channel.fillUpTo cur n ch).cursor, ring := (Channel.fillUpTo cur n ch).ring } := by
  induction n generalizing ch with
  | zero => rfl
  | succ n ih =>
    unfold Channel.fillUpTo
    split
    · rfl
    · next x hx =>
      obtain ⟨entry, t, -, -, -, -, rfl⟩ := fillOnce_eq_some hx
      rw [ih]

theorem fill_eq (cur : Nat) (ch : Channel) :
    ch.fill cur = { ch with cursor := (ch.fill cur).cursor, ring := (ch.fill cur).ring } := by
  unfold Channel.fill
  split
  · exact fillUpTo_eq cur SCAN_LIMIT ch
  · rfl

/-- The statements' `Logical` is the model's effective index and shift (45_log_fill.md R318). -/
theorem logical_iff (ch : Channel) (p e T : Nat) :
    ch.Logical p e T ↔
      ∃ entry, ch.log[e]? = some entry ∧ e = ch.effIndex p ∧ T = entry.tick.toNat + ch.effShift p := by
  unfold Channel.Logical Channel.effIndex Channel.effShift Channel.inLoop Channel.loopActive Channel.loopLen
  simp only [Bool.and_eq_true, decide_eq_true_eq, and_assoc]
  constructor
  · rintro ⟨entry, he, h⟩
    refine ⟨entry, he, ?_⟩
    split at h
    · next hc => rw [if_pos hc, if_pos hc]; exact h
    · next hc => rw [if_neg hc, if_neg hc]; exact h
  · rintro ⟨entry, he, h⟩
    refine ⟨entry, he, ?_⟩
    split
    · next hc => rw [if_pos hc, if_pos hc] at h; exact h
    · next hc => rw [if_neg hc, if_neg hc] at h; exact h

/-- The fill keeps a property of ring words that the empty word and every word of the log have. -/
theorem fillUpTo_words {P : Word → Prop} (hz : P 0) (cur n : Nat) {ch : Channel} (hl : ∀ e ∈ ch.log, P e.cmd)
    (h : ∀ j : Fin RING_CAP, P ch.ring[j]) (j : Fin RING_CAP) : P (Channel.fillUpTo cur n ch).ring[j] := by
  induction n generalizing ch with
  | zero => exact h j
  | succ n ih =>
    cases hx : ch.fillOnce cur with
    | none =>
      have e : Channel.fillUpTo cur (n + 1) ch = ch := by simp only [Channel.fillUpTo, hx]
      rw [e]; exact h j
    | some x =>
      have e : Channel.fillUpTo cur (n + 1) ch = Channel.fillUpTo cur n x := by simp only [Channel.fillUpTo, hx]
      rw [e]
      obtain ⟨entry, t, -, he, -, -, rfl⟩ := fillOnce_eq_some hx
      refine ih hl fun k => ?_
      show P (if cur ≤ t then (ch.scheduleAndTruncate ((t - cur) / FI) entry.cmd).ring else ch.ring)[k]
      by_cases ht : cur ≤ t
      · simp only [if_pos ht]
        exact scheduleAndTruncate_words hz (hl _ (List.mem_of_getElem? he)) h _ k
      · simp only [if_neg ht]
        exact h k

end Sys2Proof.Machine
end

