-- ==== Sys2Proof/Laws/Decode.lean ====
section
/-!
SUPPORT. The decoder and the encoder on the parts of a word: command fields, generator fields, register addresses.
-/

namespace Sys2Proof

open Config

variable {P : Params}

/-! ### Command words -/

/-- Bit `k` of a command word put together from its fields. -/
theorem CmdFields.getLsbD_word (en kon nokey : Bool) (f : CmdFields) (k : Nat) :
    (f.word en kon nokey).getLsbD k =
      if k < 7 then f.note.getLsbD k
      else if k < 13 then f.pbmag.getLsbD (k - 7)
      else if k < 14 then f.pbdir
      else if k < 21 then f.vol.getLsbD (k - 14)
      else if k < 27 then f.rsv.getLsbD (k - 21)
      else if k < 28 then f.pbp
      else if k < 29 then f.volp
      else if k < 30 then nokey
      else if k < 31 then kon
      else if k < 32 then en else false := by
  by_cases h : k < 32
  · refine (?_ : (BitVec.ofBool en ++ BitVec.ofBool kon ++ BitVec.ofBool nokey ++ BitVec.ofBool f.volp ++
      BitVec.ofBool f.pbp ++ f.rsv ++ f.vol ++ BitVec.ofBool f.pbdir ++ f.pbmag ++ f.note).getLsbD k = _)
    simp only [BitVec.getLsbD_append]
    interval_cases k <;> simp
  · rw [BitVec.getLsbD_of_ge _ _ (by omega)]
    simp [h, show ¬ k < 7 by omega, show ¬ k < 13 by omega, show ¬ k < 14 by omega, show ¬ k < 21 by omega,
      show ¬ k < 27 by omega, show ¬ k < 28 by omega, show ¬ k < 29 by omega, show ¬ k < 30 by omega,
      show ¬ k < 31 by omega]

@[simp] theorem cmdEn_word (en kon nokey : Bool) (f : CmdFields) : cmdEn (f.word en kon nokey) = en := by
  simp only [cmdEn, CmdFields.getLsbD_word]; rfl

@[simp] theorem cmdKon_word (en kon nokey : Bool) (f : CmdFields) : cmdKon (f.word en kon nokey) = kon := by
  simp only [cmdKon, CmdFields.getLsbD_word]; rfl

@[simp] theorem cmdNokey_word (en kon nokey : Bool) (f : CmdFields) : cmdNokey (f.word en kon nokey) = nokey := by
  simp only [cmdNokey, CmdFields.getLsbD_word]; rfl

@[simp] theorem cmdRsv_word (en kon nokey : Bool) (f : CmdFields) : cmdRsv (f.word en kon nokey) = f.rsv := by
  apply BitVec.eq_of_getLsbD_eq
  intro k hk
  simp only [cmdRsv, BitVec.getLsbD_extractLsb', CmdFields.getLsbD_word, hk, decide_true, Bool.true_and]
  interval_cases k <;> rfl

@[simp] theorem cmdFields_word (en kon nokey : Bool) (f : CmdFields) : cmdFields (f.word en kon nokey) = f := by
  obtain ⟨volp, pbp, rsv, vol, pbdir, pbmag, note⟩ := f
  simp only [cmdFields, CmdFields.mk.injEq]
  refine ⟨?_, ?_, cmdRsv_word .., ?_, ?_, ?_, ?_⟩
  · simp only [CmdFields.getLsbD_word]; rfl
  · simp only [CmdFields.getLsbD_word]; rfl
  · apply BitVec.eq_of_getLsbD_eq
    intro k hk
    simp only [BitVec.getLsbD_extractLsb', CmdFields.getLsbD_word, hk, decide_true, Bool.true_and]
    interval_cases k <;> rfl
  · simp only [CmdFields.getLsbD_word]; rfl
  · apply BitVec.eq_of_getLsbD_eq
    intro k hk
    simp only [BitVec.getLsbD_extractLsb', CmdFields.getLsbD_word, hk, decide_true, Bool.true_and]
    interval_cases k <;> rfl
  · apply BitVec.eq_of_getLsbD_eq
    intro k hk
    simp only [BitVec.getLsbD_extractLsb', CmdFields.getLsbD_word, hk, decide_true, Bool.true_and]
    interval_cases k <;> rfl

/-- The fields of a word put together again are the word. -/
theorem word_cmdFields (w : Word) : (cmdFields w).word (cmdEn w) (cmdKon w) (cmdNokey w) = w := by
  apply BitVec.eq_of_getLsbD_eq
  intro k hk
  rw [CmdFields.getLsbD_word]
  interval_cases k <;> simp [cmdFields, cmdRsv, cmdEn, cmdKon, cmdNokey]

/-- The form of the word of a form is that form. -/
@[simp] theorem formOf_word (fm : CmdForm) : formOf fm.word = fm := by
  cases fm <;> simp [formOf, CmdForm.word]

/-- The word of the form of a word is that word: no bit of a command word is lost. -/
@[simp] theorem word_formOf (w : Word) : (formOf w).word = w := by
  have h := word_cmdFields w
  unfold formOf
  cases he : cmdEn w <;> cases hn : cmdNokey w <;> cases hk : cmdKon w <;>
    simp only [he, hn, hk, Bool.not_false, Bool.not_true, if_true, if_false, CmdForm.word, Bool.false_eq_true] at h ⊢ <;>
    exact h

/-! ### Generator words -/

theorem genWord_fields (op : BitVec 4) (dst srcA srcB : BitVec 8) :
    genOp (genWord op dst srcA srcB) = op ∧ genRsv (genWord op dst srcA srcB) = 0 ∧
    genDst (genWord op dst srcA srcB) = dst ∧ genSrcA (genWord op dst srcA srcB) = srcA ∧
    genSrcB (genWord op dst srcA srcB) = srcB := by
  have bits : ∀ k, (genWord op dst srcA srcB).getLsbD k =
      (srcB ++ srcA ++ dst ++ (0 : BitVec 4) ++ op).getLsbD k := fun _ => rfl
  simp only [BitVec.getLsbD_append] at bits
  refine ⟨?_, ?_, ?_, ?_, ?_⟩ <;> apply BitVec.eq_of_getLsbD_eq <;> intro k hk <;>
    simp only [genOp, genRsv, genDst, genSrcA, genSrcB, BitVec.getLsbD_extractLsb', bits] <;>
    interval_cases k <;> simp

/-- A generator word with `GRSV = 0` is put together again from its fields. -/
theorem genWord_of_fields (v : Word) (h : genRsv v = 0) :
    genWord (genOp v) (genDst v) (genSrcA v) (genSrcB v) = v := by
  apply BitVec.eq_of_getLsbD_eq
  intro k hk
  have : (genWord (genOp v) (genDst v) (genSrcA v) (genSrcB v)).getLsbD k =
      (genSrcB v ++ genSrcA v ++ genDst v ++ genRsv v ++ genOp v).getLsbD k := by rw [h]; rfl
  simp only [BitVec.getLsbD_append] at this
  rw [this]
  interval_cases k <;> simp [genOp, genRsv, genDst, genSrcA, genSrcB]

/-! ### Register addresses -/

theorem decodeAddr_greg (r : GReg) : decodeAddr r.addr = .ok (.global r : Reg P) := by cases r <;> rfl

theorem CReg.ofOffset_offset (r : CReg) : CReg.ofOffset r.offset.toNat = some r := by cases r <;> rfl

/-- The three parts of a channel register's address (10_state.md R54). -/
theorem CReg.addr_fields (c : Chan P) (r : CReg) :
    (r.addr c).getLsbD 12 = true ∧ ((r.addr c).extractLsb' 8 4).toNat = c.val ∧
    (r.addr c).extractLsb' 0 8 = r.offset := by
  have bits (k : Nat) : (r.addr c).getLsbD k =
      if k < 8 then r.offset.getLsbD k
      else if k - 8 < 4 then (BitVec.ofNat 4 c.val).getLsbD (k - 8) else (1 : BitVec 1).getLsbD (k - 8 - 4) := by
    refine (BitVec.getLsbD_append (x := (1 : BitVec 1) ++ BitVec.ofNat 4 c.val)).trans ?_
    rw [BitVec.getLsbD_append]
  have hc : c.val < 2 ^ 4 := Nat.lt_of_lt_of_le c.isLt P.numCh_range.2
  refine ⟨by rw [bits]; rfl, ?_, ?_⟩
  · rw [show (r.addr c).extractLsb' 8 4 = BitVec.ofNat 4 c.val from BitVec.eq_of_getLsbD_eq fun k hk => by
      rw [BitVec.getLsbD_extractLsb', bits]
      interval_cases k <;> simp]
    exact Nat.mod_eq_of_lt hc
  · apply BitVec.eq_of_getLsbD_eq
    intro k hk
    rw [BitVec.getLsbD_extractLsb', bits]
    interval_cases k <;> simp

theorem decodeAddr_creg (c : Chan P) (r : CReg) : decodeAddr (r.addr c) = .ok (.channel c r) := by
  obtain ⟨h12, hc, ho⟩ := CReg.addr_fields c r
  simp only [decodeAddr, h12, if_true, hc, c.isLt, dif_pos, ho, CReg.ofOffset_offset]

/-- A global register is at the offset it decodes from. -/
theorem GReg.addr_of_ofOffset {a : Nat} {r : GReg} (h : GReg.ofOffset a = some r) : r.addr.toNat = a := by
  unfold GReg.ofOffset at h
  split at h <;> simp only [Option.some.injEq, reduceCtorEq] at h <;> subst h <;> rfl

/-- A channel register is at the offset it decodes from. -/
theorem CReg.offset_of_ofOffset {o : Nat} {r : CReg} (h : CReg.ofOffset o = some r) : r.offset.toNat = o := by
  unfold CReg.ofOffset at h
  split at h <;> simp only [Option.some.injEq, reduceCtorEq] at h <;> subst h <;> rfl

/-- The address of a mapped register. -/
def Reg.addr : Reg P → BitVec 13
  | .global r => r.addr
  | .channel c r => r.addr c

/-- An address decodes to one register, and the register is at that address. -/
theorem addr_of_decodeAddr {a : BitVec 13} {r : Reg P} (h : decodeAddr a = .ok r) : r.addr = a := by
  unfold decodeAddr at h
  split at h
  · next hb =>
    split at h
    · next hc =>
      split at h
      · next cr hr =>
        simp only [Except.ok.injEq] at h
        subst h
        have ho := CReg.offset_of_ofOffset hr
        have e : cr.offset = a.extractLsb' 0 8 := BitVec.eq_of_toNat_eq ho
        have e2 : BitVec.ofNat 4 (a.extractLsb' 8 4).toNat = a.extractLsb' 8 4 :=
          by
          apply BitVec.eq_of_toNat_eq; rw [BitVec.toNat_ofNat, Nat.mod_eq_of_lt (BitVec.isLt _)]
        have e3 : (Reg.channel ⟨(a.extractLsb' 8 4).toNat, hc⟩ cr : Reg P).addr =
            (1 : BitVec 1) ++ a.extractLsb' 8 4 ++ a.extractLsb' 0 8 := by
          simp only [Reg.addr, CReg.addr, e, e2]
        rw [e3]
        apply BitVec.eq_of_getLsbD_eq
        intro k hk
        have bits : ∀ k, ((1 : BitVec 1) ++ a.extractLsb' 8 4 ++ a.extractLsb' 0 8 : BitVec (1 + 4 + 8)).getLsbD k =
            if k < 8 then (a.extractLsb' 0 8).getLsbD k
            else if k - 8 < 4 then (a.extractLsb' 8 4).getLsbD (k - 8) else (1 : BitVec 1).getLsbD (k - 8 - 4) := by
          intro k; simp only [BitVec.getLsbD_append]
        refine (bits k).trans ?_
        interval_cases k <;> simp_all
      · exact absurd h (by simp)
    · exact absurd h (by simp)
  · next hb =>
    split at h
    · next gr hr =>
      simp only [Except.ok.injEq] at h
      subst h
      have ho := GReg.addr_of_ofOffset hr
      apply BitVec.eq_of_toNat_eq
      have h12 : a.toNat < 2 ^ 12 := by
        have := a.isLt
        have hm : a.getLsbD 12 = false := by simpa using hb
        have : a.toNat.testBit 12 = false := by simpa [BitVec.getLsbD] using hm
        by_contra hc
        have : a.toNat / 2 ^ 12 = 1 := by omega
        have := Nat.testBit_eq_decide_div_mod_eq (x := a.toNat) (i := 12)
        simp_all
      show gr.addr.toNat = a.toNat
      rw [ho]
      simp only [BitVec.extractLsb'_toNat, Nat.shiftRight_zero]
      omega
    · exact absurd h (by simp)

theorem GReg.addr_aligned (r : GReg) : checkAccess .word r.addr = .ok () := by cases r <;> rfl

theorem CReg.addr_aligned (c : Chan P) (r : CReg) : checkAccess .word (r.addr c) = .ok () := by
  have h : (r.addr c).extractLsb' 0 2 = r.offset.extractLsb' 0 2 := by
    rw [← (CReg.addr_fields c r).2.2]
    apply BitVec.eq_of_getLsbD_eq
    intro k hk
    interval_cases k <;> simp
  simp only [checkAccess, h]
  cases r <;> rfl

/-! ### Whole words and accesses -/

/-- The generator instruction of an operation code (30_encoding.md R161). -/
def genInstr (dst srcA srcB : BitVec 8) : Nat → Option (Instr P)
  | 0 => some (.genSilence dst srcA srcB)
  | 1 => some (.genSquare50 dst srcA srcB)
  | 2 => some (.genSquare25 dst srcA srcB)
  | 3 => some (.genSineadd dst srcA srcB)
  | 4 => some (.genNoiseburst dst srcA srcB)
  | 5 => some (.genTriangle dst srcA srcB)
  | 6 => some (.genMix dst srcA srcB)
  | 7 => some (.genFilter dst srcA srcB)
  | _ => none

theorem encode_genInstr {dst srcA srcB : BitVec 8} {op : BitVec 4} {i : Instr P}
    (h : genInstr dst srcA srcB op.toNat = some i) : encode i = .generator (genWord op dst srcA srcB) := by
  unfold genInstr at h
  split at h <;> simp only [Option.some.injEq, reduceCtorEq] at h <;> subst h <;>
  · next ho =>
    have : op = BitVec.ofNat 4 op.toNat := by simp
    rw [this, ho]; rfl

/-- Every instruction is a command form on a channel at a frame, a generator operation, a register write or a register
read. -/
theorem Instr.kinds (i : Instr P) :
    (∃ c k fm, i = CmdForm.instr c k fm) ∨
    (∃ (op : BitVec 4) (dst srcA srcB : BitVec 8), genInstr dst srcA srcB op.toNat = some i) ∨
    (∃ (r : Reg P) (v : Word), i = r.wr v) ∨ ∃ r : Reg P, i = r.rd := by
  cases i
  case nop c k kon nokey f => exact .inl ⟨c, k, .nop kon nokey f, rfl⟩
  case keyon c k f => exact .inl ⟨c, k, .keyon f, rfl⟩
  case keyoff c k f => exact .inl ⟨c, k, .keyoff f, rfl⟩
  case param c k kon f => exact .inl ⟨c, k, .param kon f, rfl⟩
  case genSilence d a b => exact .inr (.inl ⟨0, d, a, b, rfl⟩)
  case genSquare50 d a b => exact .inr (.inl ⟨1, d, a, b, rfl⟩)
  case genSquare25 d a b => exact .inr (.inl ⟨2, d, a, b, rfl⟩)
  case genSineadd d a b => exact .inr (.inl ⟨3, d, a, b, rfl⟩)
  case genNoiseburst d a b => exact .inr (.inl ⟨4, d, a, b, rfl⟩)
  case genTriangle d a b => exact .inr (.inl ⟨5, d, a, b, rfl⟩)
  case genMix d a b => exact .inr (.inl ⟨6, d, a, b, rfl⟩)
  case genFilter d a b => exact .inr (.inl ⟨7, d, a, b, rfl⟩)
  case wrCtrl v => exact .inr (.inr (.inl ⟨.global .ctrl, v, rfl⟩))
  case rdCtrl => exact .inr (.inr (.inr ⟨.global .ctrl, rfl⟩))
  case wrStatus v => exact .inr (.inr (.inl ⟨.global .status, v, rfl⟩))
  case rdStatus => exact .inr (.inr (.inr ⟨.global .status, rfl⟩))
  case wrTick v => exact .inr (.inr (.inl ⟨.global .tick, v, rfl⟩))
  case rdTick => exact .inr (.inr (.inr ⟨.global .tick, rfl⟩))
  case wrRbase v => exact .inr (.inr (.inl ⟨.global .rbase, v, rfl⟩))
  case rdRbase => exact .inr (.inr (.inr ⟨.global .rbase, rfl⟩))
  case wrRcount v => exact .inr (.inr (.inl ⟨.global .rcount, v, rfl⟩))
  case rdRcount => exact .inr (.inr (.inr ⟨.global .rcount, rfl⟩))
  case wrRstride v => exact .inr (.inr (.inl ⟨.global .rstride, v, rfl⟩))
  case rdRstride => exact .inr (.inr (.inr ⟨.global .rstride, rfl⟩))
  case wrRfmt v => exact .inr (.inr (.inl ⟨.global .rfmt, v, rfl⟩))
  case rdRfmt => exact .inr (.inr (.inr ⟨.global .rfmt, rfl⟩))
  case wrRgo v => exact .inr (.inr (.inl ⟨.global .rgo, v, rfl⟩))
  case rdRgo => exact .inr (.inr (.inr ⟨.global .rgo, rfl⟩))
  case wrGcmd v => exact .inr (.inr (.inl ⟨.global .gcmd, v, rfl⟩))
  case rdGcmd => exact .inr (.inr (.inr ⟨.global .gcmd, rfl⟩))
  case wrGarg0 v => exact .inr (.inr (.inl ⟨.global .garg0, v, rfl⟩))
  case rdGarg0 => exact .inr (.inr (.inr ⟨.global .garg0, rfl⟩))
  case wrGarg1 v => exact .inr (.inr (.inl ⟨.global .garg1, v, rfl⟩))
  case rdGarg1 => exact .inr (.inr (.inr ⟨.global .garg1, rfl⟩))
  case wrWtaddr v => exact .inr (.inr (.inl ⟨.global .wtaddr, v, rfl⟩))
  case rdWtaddr => exact .inr (.inr (.inr ⟨.global .wtaddr, rfl⟩))
  case wrWtdata v => exact .inr (.inr (.inl ⟨.global .wtdata, v, rfl⟩))
  case rdWtdata => exact .inr (.inr (.inr ⟨.global .wtdata, rfl⟩))
  case wrHcaddr v => exact .inr (.inr (.inl ⟨.global .hcaddr, v, rfl⟩))
  case rdHcaddr => exact .inr (.inr (.inr ⟨.global .hcaddr, rfl⟩))
  case wrHcdata v => exact .inr (.inr (.inl ⟨.global .hcdata, v, rfl⟩))
  case rdHcdata => exact .inr (.inr (.inr ⟨.global .hcdata, rfl⟩))
  case wrCtaddr v => exact .inr (.inr (.inl ⟨.global .ctaddr, v, rfl⟩))
  case rdCtaddr => exact .inr (.inr (.inr ⟨.global .ctaddr, rfl⟩))
  case wrCtdata v => exact .inr (.inr (.inl ⟨.global .ctdata, v, rfl⟩))
  case rdCtdata => exact .inr (.inr (.inr ⟨.global .ctdata, rfl⟩))
  case wrTapaddr v => exact .inr (.inr (.inl ⟨.global .tapaddr, v, rfl⟩))
  case rdTapaddr => exact .inr (.inr (.inr ⟨.global .tapaddr, rfl⟩))
  case wrTapdata v => exact .inr (.inr (.inl ⟨.global .tapdata, v, rfl⟩))
  case rdTapdata => exact .inr (.inr (.inr ⟨.global .tapdata, rfl⟩))
  case wrChGensel c v => exact .inr (.inr (.inl ⟨.channel c .gensel, v, rfl⟩))
  case rdChGensel c => exact .inr (.inr (.inr ⟨.channel c .gensel, rfl⟩))
  case wrChAttack c v => exact .inr (.inr (.inl ⟨.channel c .attack, v, rfl⟩))
  case rdChAttack c => exact .inr (.inr (.inr ⟨.channel c .attack, rfl⟩))
  case wrChDecay c v => exact .inr (.inr (.inl ⟨.channel c .decay, v, rfl⟩))
  case rdChDecay c => exact .inr (.inr (.inr ⟨.channel c .decay, rfl⟩))
  case wrChSustain c v => exact .inr (.inr (.inl ⟨.channel c .sustain, v, rfl⟩))
  case rdChSustain c => exact .inr (.inr (.inr ⟨.channel c .sustain, rfl⟩))
  case wrChRelease c v => exact .inr (.inr (.inl ⟨.channel c .release, v, rfl⟩))
  case rdChRelease c => exact .inr (.inr (.inr ⟨.channel c .release, rfl⟩))
  case wrChFaderate c v => exact .inr (.inr (.inl ⟨.channel c .faderate, v, rfl⟩))
  case rdChFaderate c => exact .inr (.inr (.inr ⟨.channel c .faderate, rfl⟩))
  case wrChDetune c v => exact .inr (.inr (.inl ⟨.channel c .detune, v, rfl⟩))
  case rdChDetune c => exact .inr (.inr (.inr ⟨.channel c .detune, rfl⟩))
  case wrChVolume c v => exact .inr (.inr (.inl ⟨.channel c .volume, v, rfl⟩))
  case rdChVolume c => exact .inr (.inr (.inr ⟨.channel c .volume, rfl⟩))
  case wrChSysvol c v => exact .inr (.inr (.inl ⟨.channel c .sysvol, v, rfl⟩))
  case rdChSysvol c => exact .inr (.inr (.inr ⟨.channel c .sysvol, rfl⟩))
  case wrChFadetgt c v => exact .inr (.inr (.inl ⟨.channel c .fadetgt, v, rfl⟩))
  case rdChFadetgt c => exact .inr (.inr (.inr ⟨.channel c .fadetgt, rfl⟩))
  case wrChNoteoff c v => exact .inr (.inr (.inl ⟨.channel c .noteoff, v, rfl⟩))
  case rdChNoteoff c => exact .inr (.inr (.inr ⟨.channel c .noteoff, rfl⟩))
  case wrChChctrl c v => exact .inr (.inr (.inl ⟨.channel c .chctrl, v, rfl⟩))
  case rdChChctrl c => exact .inr (.inr (.inr ⟨.channel c .chctrl, rfl⟩))
  case wrChSchofs c v => exact .inr (.inr (.inl ⟨.channel c .schofs, v, rfl⟩))
  case rdChSchofs c => exact .inr (.inr (.inr ⟨.channel c .schofs, rfl⟩))
  case wrChSchcmd c v => exact .inr (.inr (.inl ⟨.channel c .schcmd, v, rfl⟩))
  case rdChSchcmd c => exact .inr (.inr (.inr ⟨.channel c .schcmd, rfl⟩))
  case wrChRingidx c v => exact .inr (.inr (.inl ⟨.channel c .ringidx, v, rfl⟩))
  case rdChRingidx c => exact .inr (.inr (.inr ⟨.channel c .ringidx, rfl⟩))
  case wrChRingdata c v => exact .inr (.inr (.inl ⟨.channel c .ringdata, v, rfl⟩))
  case rdChRingdata c => exact .inr (.inr (.inr ⟨.channel c .ringdata, rfl⟩))
  case wrChLogctrl c v => exact .inr (.inr (.inl ⟨.channel c .logctrl, v, rfl⟩))
  case rdChLogctrl c => exact .inr (.inr (.inr ⟨.channel c .logctrl, rfl⟩))
  case wrChLogcount c v => exact .inr (.inr (.inl ⟨.channel c .logcount, v, rfl⟩))
  case rdChLogcount c => exact .inr (.inr (.inr ⟨.channel c .logcount, rfl⟩))
  case wrChLogcursor c v => exact .inr (.inr (.inl ⟨.channel c .logcursor, v, rfl⟩))
  case rdChLogcursor c => exact .inr (.inr (.inr ⟨.channel c .logcursor, rfl⟩))
  case wrChApptick c v => exact .inr (.inr (.inl ⟨.channel c .apptick, v, rfl⟩))
  case rdChApptick c => exact .inr (.inr (.inr ⟨.channel c .apptick, rfl⟩))
  case wrChAppcmd c v => exact .inr (.inr (.inl ⟨.channel c .appcmd, v, rfl⟩))
  case rdChAppcmd c => exact .inr (.inr (.inr ⟨.channel c .appcmd, rfl⟩))
  case wrChLoopfirst c v => exact .inr (.inr (.inl ⟨.channel c .loopfirst, v, rfl⟩))
  case rdChLoopfirst c => exact .inr (.inr (.inr ⟨.channel c .loopfirst, rfl⟩))
  case wrChLooplast c v => exact .inr (.inr (.inl ⟨.channel c .looplast, v, rfl⟩))
  case rdChLooplast c => exact .inr (.inr (.inr ⟨.channel c .looplast, rfl⟩))
  case wrChLoopstart c v => exact .inr (.inr (.inl ⟨.channel c .loopstart, v, rfl⟩))
  case rdChLoopstart c => exact .inr (.inr (.inr ⟨.channel c .loopstart, rfl⟩))
  case wrChLoopend c v => exact .inr (.inr (.inl ⟨.channel c .loopend, v, rfl⟩))
  case rdChLoopend c => exact .inr (.inr (.inr ⟨.channel c .loopend, rfl⟩))
  case wrChLogidx c v => exact .inr (.inr (.inl ⟨.channel c .logidx, v, rfl⟩))
  case rdChLogidx c => exact .inr (.inr (.inr ⟨.channel c .logidx, rfl⟩))
  case wrChLogtick c v => exact .inr (.inr (.inl ⟨.channel c .logtick, v, rfl⟩))
  case rdChLogtick c => exact .inr (.inr (.inr ⟨.channel c .logtick, rfl⟩))
  case wrChLogcmd c v => exact .inr (.inr (.inl ⟨.channel c .logcmd, v, rfl⟩))
  case rdChLogcmd c => exact .inr (.inr (.inr ⟨.channel c .logcmd, rfl⟩))
  case wrChEnvphase c v => exact .inr (.inr (.inl ⟨.channel c .envphase, v, rfl⟩))
  case rdChEnvphase c => exact .inr (.inr (.inr ⟨.channel c .envphase, rfl⟩))
  case wrChGain c v => exact .inr (.inr (.inl ⟨.channel c .gain, v, rfl⟩))
  case rdChGain c => exact .inr (.inr (.inr ⟨.channel c .gain, rfl⟩))
  case wrChKeycnt c v => exact .inr (.inr (.inl ⟨.channel c .keycnt, v, rfl⟩))
  case rdChKeycnt c => exact .inr (.inr (.inr ⟨.channel c .keycnt, rfl⟩))
  case wrChNotevol c v => exact .inr (.inr (.inl ⟨.channel c .notevol, v, rfl⟩))
  case rdChNotevol c => exact .inr (.inr (.inr ⟨.channel c .notevol, rfl⟩))
  case wrChBasefreq c v => exact .inr (.inr (.inl ⟨.channel c .basefreq, v, rfl⟩))
  case rdChBasefreq c => exact .inr (.inr (.inr ⟨.channel c .basefreq, rfl⟩))
  case wrChBentfreq c v => exact .inr (.inr (.inl ⟨.channel c .bentfreq, v, rfl⟩))
  case rdChBentfreq c => exact .inr (.inr (.inr ⟨.channel c .bentfreq, rfl⟩))
  case wrChLastnote c v => exact .inr (.inr (.inl ⟨.channel c .lastnote, v, rfl⟩))
  case rdChLastnote c => exact .inr (.inr (.inr ⟨.channel c .lastnote, rfl⟩))
  case wrChOscpos c v => exact .inr (.inr (.inl ⟨.channel c .oscpos, v, rfl⟩))
  case rdChOscpos c => exact .inr (.inr (.inr ⟨.channel c .oscpos, rfl⟩))
  case wrChLfsr c v => exact .inr (.inr (.inl ⟨.channel c .lfsr, v, rfl⟩))
  case rdChLfsr c => exact .inr (.inr (.inr ⟨.channel c .lfsr, rfl⟩))
  case wrChRinghead c v => exact .inr (.inr (.inl ⟨.channel c .ringhead, v, rfl⟩))
  case rdChRinghead c => exact .inr (.inr (.inr ⟨.channel c .ringhead, rfl⟩))

theorem encode_instr (c : Chan P) (k : Nat) (fm : CmdForm) : encode (fm.instr c k) = .command c k fm.word := by
  cases fm <;> rfl

theorem encode_wr (r : Reg P) (v : Word) : encode (r.wr v) = busWr r.addr v := by
  cases r with
  | global r => cases r <;> rfl
  | channel c r => cases r <;> rfl

theorem encode_rd (r : Reg P) : encode r.rd = busRd r.addr := by
  cases r with
  | global r => cases r <;> rfl
  | channel c r => cases r <;> rfl

/-- What a command word decodes to. -/
theorem decode_command (c : Chan P) (k : Nat) (w : Word) :
    decode (.command c k w) =
      if cmdRsv w = 0 then .ok ((formOf w).instr c k) else .error (.word .reservedCommandBits) := by
  simp only [decode, decodeCommand]; split <;> rfl

/-- What a generator word decodes to. -/
theorem decode_generator (v : Word) :
    decode (.generator v : Encoded P) =
      if genRsv v ≠ 0 then .error (.word .reservedGeneratorBits)
      else match genInstr (genDst v) (genSrcA v) (genSrcB v) (genOp v).toNat with
        | some i => .ok i
        | none => .error (.word .reservedGeneratorOp) := by
  simp only [decode, decodeGenerator]
  split
  · rfl
  · split <;> simp_all [genInstr, Except.mapError]

theorem decodeAddr_addr (r : Reg P) : decodeAddr r.addr = .ok r := by
  cases r with
  | global r => exact decodeAddr_greg r
  | channel c r => exact decodeAddr_creg c r

theorem Reg.addr_aligned (r : Reg P) : checkAccess .word r.addr = .ok () := by
  cases r with
  | global r => exact GReg.addr_aligned r
  | channel c r => exact CReg.addr_aligned c r

theorem decodeBus_wr (r : Reg P) (v : Word) : decodeBus (.write .word r.addr v) = .ok (r.wr v) := by
  simp [decodeBus, Reg.addr_aligned, decodeAddr_addr, Except.map]

theorem decodeBus_rd (r : Reg P) : decodeBus (.read .word r.addr) = .ok r.rd := by
  simp [decodeBus, Reg.addr_aligned, decodeAddr_addr, Except.map]

/-- A bus access that decodes is a word access at its register's address. -/
theorem bus_of_decodeBus {op : BusOp} {i : Instr P} (h : decodeBus op = .ok i) :
    (∃ (r : Reg P) (v : Word), i = r.wr v ∧ op = .write .word r.addr v) ∨
    ∃ r : Reg P, i = r.rd ∧ op = .read .word r.addr := by
  have key : ∀ {w : Width} {a : BitVec 13}, checkAccess w a = .ok () → w = .word := by
    intro w a hc
    by_contra hw
    simp [checkAccess, hw] at hc
  cases op with
  | write w a v =>
    simp only [decodeBus] at h
    split at h
    · exact absurd h (by simp)
    · next u hc =>
      cases hd : decodeAddr (P := P) a with
      | error e => simp [hd, Except.map] at h
      | ok r =>
        simp only [hd, Except.map, Except.ok.injEq] at h
        exact .inl ⟨r, v, h.symm, by rw [key hc, addr_of_decodeAddr hd]⟩
  | read w a =>
    simp only [decodeBus] at h
    split at h
    · exact absurd h (by simp)
    · next u hc =>
      cases hd : decodeAddr (P := P) a with
      | error e => simp [hd, Except.map] at h
      | ok r =>
        simp only [hd, Except.map, Except.ok.injEq] at h
        exact .inr ⟨r, h.symm, by rw [key hc, addr_of_decodeAddr hd]⟩

end Sys2Proof
end

