-- ==== Sys2Proof/Laws/Memory.lean ====
section
/-!
SUPPORT. The output memory: what a read sees after a write, and that every operation on it keeps the canonical form.
-/

namespace Sys2Proof.Machine

open Config

/-- Reading after a write. -/
theorem Memory.read_write (m : Memory) (a b : Nat) (x : Byte) :
    Memory.read (Memory.write m a x) b = if a = b then some x else Memory.read m b := by
  induction m with
  | nil => simp [Memory.write, Memory.read]
  | cons cell rest ih =>
    obtain ⟨k, y⟩ := cell
    simp only [Memory.write]
    split
    · next h => simp [Memory.read]
    · next h =>
      split
      · next h2 => subst h2; simp only [Memory.read]; split <;> simp_all
      · next h2 =>
        simp only [Memory.read, ih]
        split
        · next h3 => subst h3; simp [h2]
        · rfl

@[simp] theorem Memory.read_write_same (m : Memory) (a : Nat) (x : Byte) :
    Memory.read (Memory.write m a x) a = some x := by simp [Memory.read_write]

theorem Memory.read_write_ne (m : Memory) {a b : Nat} (h : a ≠ b) (x : Byte) :
    Memory.read (Memory.write m a x) b = Memory.read m b := by simp [Memory.read_write, h]

/-- The cells after a write: the written one and old ones at other addresses. -/
theorem Memory.mem_write {m : Memory} {a : Nat} {x : Byte} {cell : Host.Cell}
    (h : cell ∈ Memory.write m a x) : cell = (a, x) ∨ cell ∈ m := by
  induction m with
  | nil => simpa [Memory.write] using h
  | cons c rest ih =>
    obtain ⟨k, y⟩ := c
    simp only [Memory.write] at h
    split at h
    · simpa using h
    · split at h
      · rcases List.mem_cons.1 h with h | h
        · exact .inl h
        · exact .inr (List.mem_cons_of_mem _ h)
      · rcases List.mem_cons.1 h with h | h
        · exact .inr (by simp [h])
        · rcases ih h with h | h
          · exact .inl h
          · exact .inr (List.mem_cons_of_mem _ h)

/-- A write keeps the canonical form. -/
theorem Memory.write_wf {m : Memory} (h : Memory.wf m = true) (a : Nat) (x : Byte) :
    Memory.wf (Memory.write m a x) = true := by
  simp only [Memory.wf, decide_eq_true_eq] at *
  induction m with
  | nil => simp [Memory.write]
  | cons c rest ih =>
    obtain ⟨k, y⟩ := c
    rw [List.pairwise_cons] at h
    simp only [Memory.write]
    split
    · next hlt =>
      refine List.pairwise_cons.2 ⟨?_, List.pairwise_cons.2 h⟩
      intro cell hc
      rcases List.mem_cons.1 hc with rfl | hc
      · exact hlt
      · exact lt_trans hlt (h.1 cell hc)
    · next hge =>
      split
      · next heq => subst heq; exact List.pairwise_cons.2 h
      · next hne =>
        refine List.pairwise_cons.2 ⟨?_, ih h.2⟩
        intro cell hc
        rcases Memory.mem_write hc with rfl | hc
        · show k < a; omega
        · exact h.1 cell hc

/-- In the canonical form a listed cell is what its address reads. -/
theorem Memory.read_of_mem {m : Memory} (h : Memory.wf m = true) {a : Nat} {x : Byte} (hm : (a, x) ∈ m) :
    Memory.read m a = some x := by
  simp only [Memory.wf, decide_eq_true_eq] at h
  induction m with
  | nil => simp at hm
  | cons c rest ih =>
    obtain ⟨k, y⟩ := c
    rw [List.pairwise_cons] at h
    simp only [Memory.read]
    rcases List.mem_cons.1 hm with heq | hm
    · cases heq; simp
    · rw [if_neg (Nat.ne_of_lt (h.1 _ hm)), ih hm h.2]

/-- Equal reads make equal memories, in the canonical form. -/
theorem Memory.ext_of_read {m n : Memory} (hm : Memory.wf m = true) (hn : Memory.wf n = true)
    (h : ∀ a, Memory.read m a = Memory.read n a) : m = n := by
  have mem_of_read : ∀ {l : Memory} {a : Nat} {x : Byte}, Memory.read l a = some x → (a, x) ∈ l := by
    intro l a x hr
    induction l with
    | nil => simp [Memory.read] at hr
    | cons c rest ih =>
      obtain ⟨k, y⟩ := c
      simp only [Memory.read] at hr
      split at hr
      · next hk => subst hk; simp at hr; simp [hr]
      · exact List.mem_cons_of_mem _ (ih hr)
  have same : ∀ cell, cell ∈ m ↔ cell ∈ n := by
    rintro ⟨a, x⟩
    constructor
    · intro hc; exact mem_of_read ((h a).symm.trans (Memory.read_of_mem hm hc))
    · intro hc; exact mem_of_read ((h a).trans (Memory.read_of_mem hn hc))
  simp only [Memory.wf, decide_eq_true_eq] at hm hn
  clear h mem_of_read
  induction m generalizing n with
  | nil => cases n with
    | nil => rfl
    | cons c rest => have := (same c).2 (by simp); simp at this
  | cons c rest ih =>
    cases n with
    | nil => have := (same c).1 (by simp); simp at this
    | cons d rest' =>
      rw [List.pairwise_cons] at hm hn
      have hcd : c = d := by
        rcases List.mem_cons.1 ((same c).1 (by simp)) with e | e
        · exact e
        · rcases List.mem_cons.1 ((same d).2 (by simp)) with e' | e'
          · exact e'.symm
          · exact absurd (hm.1 _ e') (by have := hn.1 _ e; omega)
      subst hcd
      congr 1
      refine ih (n := rest') ?_ hm.2 hn.2
      intro cell
      constructor
      · intro hc
        rcases List.mem_cons.1 ((same cell).1 (List.mem_cons_of_mem _ hc)) with e | e
        · subst e; exact absurd (hm.1 _ hc) (lt_irrefl _)
        · exact e
      · intro hc
        rcases List.mem_cons.1 ((same cell).2 (List.mem_cons_of_mem _ hc)) with e | e
        · subst e; exact absurd (hn.1 _ hc) (lt_irrefl _)
        · exact e

/-! ### The writes of a sample and of a frame -/

/-- What a sample write does to the state: the output memory alone. -/
theorem writeSample_eq (a : Nat) (v : Sample) (s : State) :
    writeSample a v s = { s with out := (writeSample a v s).out } := by
  unfold writeSample; split <;> rfl

/-- What a frame write does to the state: the output memory alone. -/
theorem writeFrame_eq (i : Nat) (v : Sample) (s : State) :
    writeFrame i v s = { s with out := (writeFrame i v s).out } := by
  cases hs : s.rstereo <;> cases hb : s.rbig <;> simp [writeFrame, writeSample, outWrite, hs, hb]

/-- A frame write keeps any property of memories that a byte write at the frame's addresses keeps. -/
theorem writeFrame_keeps {P : Memory → Prop} (i : Nat) (v : Sample) (s : State)
    (hw : ∀ m a x, frameAddr s i ≤ a → a < frameAddr s i + frameSize s → P m → P (Memory.write m a x))
    (h : P s.out) : P (writeFrame i v s).out := by
  cases hs : s.rstereo <;> cases hb : s.rbig <;>
    simp only [writeFrame, writeSample, hs, hb, frameSize, outWrite_out, outWrite_rbig, if_true, if_false,
      Bool.false_eq_true] at * <;>
    repeat (first | exact h | refine hw _ _ _ (by omega) (by omega) ?_)

/-- A frame write keeps the canonical form. -/
theorem writeFrame_wf (i : Nat) (v : Sample) (s : State) (h : Memory.wf s.out = true) :
    Memory.wf (writeFrame i v s).out = true :=
  writeFrame_keeps (P := fun m => Memory.wf m = true) i v s (fun _ _ _ _ _ hm => Memory.write_wf hm _ _) h

/-- A frame write leaves every byte outside the frame. -/
theorem writeFrame_read_outside (i : Nat) (v : Sample) (s : State) (a : Nat)
    (h : a < frameAddr s i ∨ frameAddr s i + frameSize s ≤ a) :
    Memory.read (writeFrame i v s).out a = Memory.read s.out a := by
  refine writeFrame_keeps (P := fun m => Memory.read m a = Memory.read s.out a) i v s ?_ rfl
  intro m b x h1 h2 hm
  rw [Memory.read_write_ne _ (by omega), hm]

/-- A frame write puts the sample at the frame's address, and at the second slot of a stereo frame. -/
theorem writeFrame_sampleAt (i : Nat) (v : Sample) (s : State) :
    SampleAt (writeFrame i v s).out s.rbig (frameAddr s i) v ∧
    (s.rstereo = true → SampleAt (writeFrame i v s).out s.rbig (frameAddr s i + 2) v) := by
  cases hs : s.rstereo <;> cases hb : s.rbig <;>
    simp [SampleAt, writeFrame, writeSample, outWrite, hs, hb, Memory.read_write] <;> omega

end Sys2Proof.Machine
end

