-- ==== Sys2Proof/Laws/Render.lean ====
section
/-!
SUPPORT. The render as one update of the state: what a consumption step, a consumption tick, a frame and a run of
frames write, channel by channel. Proofs about renders cite these and unfold no step.
-/

namespace Sys2Proof.Machine

open Config

/-! ### One command on one channel -/

/-- The channel after the command word `w` (41_command_apply.md R230 to R236). -/
def Channel.applied (ct : Vector Word NOTE_COUNT) (w : Word) (ch : Channel) : Channel :=
  match formOf w with
  | .nop _ _ _ => ch
  | .keyon f => ch.keyOn.applyParams ct f
  | .keyoff f => ch.keyOff.applyParams ct f
  | .param _ f => ch.applyParams ct f

/-- The observer record of the command word `w` on a channel, if there is one (41_command_apply.md R231, R237). -/
def Channel.record (c : Chan) (i : Nat) (w : Word) (ch : Channel) : List TraceRec :=
  if cmdEn w && ch.obs then [⟨c, w, i⟩] else []

theorem applyParams_obs (ct : Vector Word NOTE_COUNT) (f : CmdFields) (ch : Channel) :
    (ch.applyParams ct f).obs = ch.obs := by
  simp only [Channel.applyParams, Channel.applyVolume, Channel.applyNote, Channel.applyBend]
  (repeat' split) <;> rfl

theorem observe_eq (c : Chan) (i : Nat) (w : Word) (s : State) :
    observe c i w s = { s with trace := s.trace ++ if (s.ch c).obs then [⟨c, w, i⟩] else [] } := by
  unfold observe
  split
  · rfl
  · simp

/-- A command word changes its channel and may add one observer record; nothing else. -/
theorem applyWord_eq (c : Chan) (i : Nat) (w : Word) (s : State) :
    applyWord c i w s =
      { s.setCh c ((s.ch c).applied s.ct w) with trace := s.trace ++ (s.ch c).record c i w } := by
  have hw := word_formOf w
  have key : ∀ g : Channel → Channel, (∀ ch, (g ch).obs = ch.obs) →
      observe c i w (s.modCh c g) =
        { s.setCh c (g (s.ch c)) with trace := s.trace ++ if (s.ch c).obs then [⟨c, w, i⟩] else [] } := by
    intro g hg
    rw [observe_eq]
    have : ((s.modCh c g).ch c).obs = (s.ch c).obs := by simp [hg]
    rw [this]
    rfl
  unfold applyWord Channel.applied Channel.record
  cases hf : formOf w with
  | nop kon nokey f =>
    rw [hf] at hw
    have : cmdEn w = false := by rw [← hw]; simp [CmdForm.word]
    simp [this, State.setCh, State.ch]
  | keyon f =>
    rw [hf] at hw
    have : cmdEn w = true := by rw [← hw]; simp [CmdForm.word]
    simp only [this, Bool.true_and, applyKeyon, hw]
    exact key _ fun ch => by rw [applyParams_obs]; rfl
  | keyoff f =>
    rw [hf] at hw
    have : cmdEn w = true := by rw [← hw]; simp [CmdForm.word]
    simp only [this, Bool.true_and, applyKeyoff, hw]
    exact key _ fun ch => by rw [applyParams_obs]; rfl
  | param kon f =>
    rw [hf] at hw
    have : cmdEn w = true := by rw [← hw]; simp [CmdForm.word]
    simp only [this, Bool.true_and, applyParam, hw]
    exact key _ fun ch => by rw [applyParams_obs]

/-! ### The consumption step -/

/-- The channel after its consumption step (46_render.md R345): consume, apply, fade. -/
def Channel.consumed (ct : Vector Word NOTE_COUNT) (ch : Channel) : Channel :=
  (ch.consume.2.applied ct ch.consume.1).fadeStep

/-- The observer record of the consumption step, if there is one. -/
def Channel.consumedRecord (c : Chan) (i : Nat) (ch : Channel) : List TraceRec := ch.record c i ch.consume.1

theorem consumeStep_eq (i : Nat) (c : Chan) (s : State) :
    consumeStep i c s =
      { s.setCh c ((s.ch c).consumed s.ct) with trace := s.trace ++ (s.ch c).consumedRecord c i } := by
  unfold consumeStep
  simp only [applyWord_eq, ch_setCh_same, setCh_trace, setCh_ct]
  simp [State.modCh, State.setCh, State.ch, Channel.consumed, Channel.consumedRecord, Channel.record, Channel.consume]

/-- Steps that each change their own channel and append to the observer stream, over distinct channels. -/
theorem foldl_channels {g : State → Channel → Channel} {r : Chan → Channel → List TraceRec} {step : Chan → State → State}
    (hstep : ∀ c s, step c s = { s.setCh c (g s (s.ch c)) with trace := s.trace ++ r c (s.ch c) })
    (hg : ∀ c s, g (step c s) = g s) (l : List Chan) (hl : l.Nodup) (s : State) :
    l.foldl (fun s c => step c s) s =
      { s with
        chans := Vector.ofFn fun c => if c ∈ l then g s (s.ch c) else s.ch c
        trace := s.trace ++ l.flatMap fun c => r c (s.ch c) } := by
  induction l generalizing s with
  | nil =>
    simp only [List.foldl_nil, List.not_mem_nil, if_false, List.flatMap_nil, List.append_nil]
    have : (Vector.ofFn fun c => s.ch c) = s.chans := by
      apply Vector.ext; intro k hk; simp [State.ch]
    rw [this]
  | cons c l ih =>
    rw [List.nodup_cons] at hl
    rw [List.foldl_cons, ih hl.2, hg]
    have hch : ∀ d, (step c s).ch d = if d = c then g s (s.ch c) else s.ch d := by
      intro d; rw [hstep]; exact ch_setCh s c d _
    have htr : (step c s).trace = s.trace ++ r c (s.ch c) := by rw [hstep]
    have hv : (Vector.ofFn fun d => if d ∈ l then g s ((step c s).ch d) else (step c s).ch d) =
        Vector.ofFn fun d => if d ∈ c :: l then g s (s.ch d) else s.ch d := by
      congr 1
      funext d
      rw [hch]
      by_cases hd : d = c
      · subst hd; simp [hl.1]
      · simp [hd]
    have hr : (l.flatMap fun d => r d ((step c s).ch d)) = l.flatMap fun d => r d (s.ch d) := by
      rw [List.flatMap_def, List.flatMap_def]
      congr 1
      apply List.map_congr_left
      intro d hd
      have hne : d ≠ c := by rintro rfl; exact hl.1 hd
      rw [hch, if_neg hne]
    rw [hv, hr, htr, List.append_assoc, ← List.flatMap_cons (f := fun d => r d (s.ch d))]
    rw [hstep]
    rfl

/-- A consumption tick: every channel consumes from its own state, the records come in channel order
(46_render.md R345). -/
theorem consumeAll_tick (i : Nat) {s : State} (h : s.tick.toNat % FI = 0) :
    consumeAll i s =
      { s with
        chans := s.chans.map (Channel.consumed s.ct)
        trace := s.trace ++ (List.finRange NUM_CH).flatMap fun c => (s.ch c).consumedRecord c i } := by
  have ht : consumptionTick s = true := by simp [consumptionTick, h]
  unfold consumeAll
  rw [if_pos ht]
  unfold forChans
  rw [foldl_channels (g := fun s => Channel.consumed s.ct) (r := fun c ch => ch.consumedRecord c i)
    (fun c s => consumeStep_eq i c s) (fun c s => by rw [consumeStep_eq]; rfl) _ (List.nodup_finRange _)]
  congr 1
  apply Vector.ext
  intro k hk
  simp [State.ch]

theorem consumeAll_other (i : Nat) {s : State} (h : s.tick.toNat % FI ≠ 0) : consumeAll i s = s := by
  have ht : consumptionTick s = false := by simp [consumptionTick, h]
  simp [consumeAll, ht]

/-! ### A frame -/

/-- The channel after the state changes of one frame at tick `tick`. -/
def Channel.framed (ct : Vector Word NOTE_COUNT) (tick : Word) (ch : Channel) : Channel :=
  (if tick.toNat % FI = 0 then ch.consumed ct else ch).frameStep

/-- The observer records of one frame. -/
def frameRecords (i : Nat) (s : State) : List TraceRec :=
  if s.tick.toNat % FI = 0 then (List.finRange NUM_CH).flatMap fun c => (s.ch c).consumedRecord c i else []

/-- The state whose mix a frame writes. -/
theorem stepAll_consumeAll (i : Nat) (s : State) :
    stepAll (consumeAll i s) =
      { s with chans := s.chans.map (Channel.framed s.ct s.tick), trace := s.trace ++ frameRecords i s } := by
  unfold stepAll Channel.framed frameRecords
  by_cases h : s.tick.toNat % FI = 0
  · rw [consumeAll_tick i h]
    simp only [State.mapCh, Vector.map_map, h, if_true]
    rfl
  · rw [consumeAll_other i h]
    simp only [State.mapCh, h, if_false, List.append_nil]

/-- One frame as one update. -/
theorem renderFrame_eq (i : Nat) (s : State) :
    renderFrame i s =
      { s with
        tick := s.tick + 1
        chans := s.chans.map (Channel.framed s.ct s.tick)
        out := (renderFrame i s).out
        trace := s.trace ++ frameRecords i s } := by
  unfold renderFrame
  simp only
  rw [writeFrame_eq, stepAll_consumeAll]
  rfl

/-- What a frame writes to the output memory. -/
theorem renderFrame_out (i : Nat) (s : State) :
    (renderFrame i s).out =
      (writeFrame i (toSample (clamp16 (mix (stepAll (consumeAll i s))))) (stepAll (consumeAll i s))).out := rfl

theorem ch_renderFrame (i : Nat) (s : State) (c : Chan) :
    (renderFrame i s).ch c = (s.ch c).framed s.ct s.tick := by
  rw [renderFrame_eq]; simp [State.ch]

/-! ### A run of frames -/

theorem renderFrames_succ (n i : Nat) (s : State) :
    renderFrames (n + 1) i s = renderFrames n (i + 1) (renderFrame i s) := rfl

theorem renderFrames_add (m n i : Nat) (s : State) :
    renderFrames (m + n) i s = renderFrames n (i + m) (renderFrames m i s) := by
  induction m generalizing i s with
  | zero => simp [renderFrames]
  | succ m ih =>
    rw [Nat.succ_add_eq_add_succ, Nat.add_succ, renderFrames_succ, ih, renderFrames_succ,
      Nat.succ_add_eq_add_succ, Nat.add_succ]

theorem renderFrames_last (n i : Nat) (s : State) :
    renderFrames (n + 1) i s = renderFrame (i + n) (renderFrames n i s) := by
  rw [renderFrames_add]; rfl

/-- A run of frames writes the tick, the channels, the output memory and the observer stream. -/
theorem renderFrames_eq (n i : Nat) (s : State) :
    renderFrames n i s =
      { s with
        tick := s.tick + BitVec.ofNat 32 n
        chans := (renderFrames n i s).chans
        out := (renderFrames n i s).out
        trace := (renderFrames n i s).trace } := by
  induction n with
  | zero => simp [renderFrames]
  | succ n ih =>
    rw [renderFrames_last, renderFrame_eq]
    have e : (renderFrames n i s).tick + 1 = s.tick + BitVec.ofNat 32 (n + 1) := by
      rw [ih]
      simp only [BitVec.add_assoc]
      rw [BitVec.ofNat_add]
      rfl
    rw [e]
    generalize (renderFrames n i s).chans.map _ = a
    generalize (renderFrame (i + n) (renderFrames n i s)).out = b
    generalize (renderFrames n i s).trace ++ _ = d
    rw [ih]

theorem renderFrames_tick (n i : Nat) (s : State) :
    (renderFrames n i s).tick = s.tick + BitVec.ofNat 32 n := by rw [renderFrames_eq]

theorem renderFrames_trace (n i : Nat) (s : State) : s.trace <+: (renderFrames n i s).trace := by
  induction n with
  | zero => exact List.prefix_rfl
  | succ n ih =>
    rw [renderFrames_last, renderFrame_eq]
    exact ih.trans (List.prefix_append _ _)

/-- What one channel becomes over a run of frames depends on nothing but the channel, the custom table and the tick. -/
def Channel.played (ct : Vector Word NOTE_COUNT) : Nat → Word → Channel → Channel
  | 0, _, ch => ch
  | n + 1, tick, ch => Channel.played ct n (tick + 1) (ch.framed ct tick)

theorem ch_renderFrames (n i : Nat) (s : State) (c : Chan) :
    (renderFrames n i s).ch c = (s.ch c).played s.ct n s.tick := by
  induction n generalizing i s with
  | zero => rfl
  | succ n ih =>
    rw [renderFrames_succ, ih, ch_renderFrame, renderFrame_eq]
    rfl

/-! ### The whole render -/

/-- A paused run of frames writes the output memory alone. -/
theorem silentFrames_eq (n i : Nat) (s : State) :
    silentFrames n i s = { s with out := (silentFrames n i s).out } := by
  induction n generalizing i s with
  | zero => rfl
  | succ n ih =>
    unfold silentFrames
    rw [ih, writeFrame_eq]

theorem rbase_eq_zero (s : State) : s.rbase = 0 ↔ s.rbase.toNat = 0 :=
  ⟨fun h => by rw [h]; rfl, fun h => BitVec.eq_of_toNat_eq h⟩

/-- Everything a render can do: nothing, one of three refusals, or the frames (46_render.md R340 to R352). -/
theorem render_cases (s : State) :
    (s.rcount.toNat = 0 ∧ render s = .next s) ∨
    (¬ s.renderAccepted ∧ ∃ k, render s = .next (fail k s)) ∨
    (s.renderAccepted ∧ s.pause = true ∧ render s = .next (done (silentFrames s.rcount.toNat 0 s))) ∨
    (s.renderAccepted ∧ s.pause = false ∧ render s = .next (done (renderFrames s.rcount.toNat 0 (fillAll s)))) := by
  unfold State.renderAccepted render
  simp only [rbase_eq_zero]
  by_cases h1 : s.rcount.toNat = 0
  · exact .inl ⟨h1, by rw [if_pos h1]⟩
  · rw [if_neg h1]
    by_cases h2 : s.rbase.toNat = 0
    · exact .inr (.inl ⟨fun h => h.2.1 h2, _, by rw [if_pos h2]; rfl⟩)
    · rw [if_neg h2]
      by_cases h3 : s.rstride.toNat < frameSize s
      · exact .inr (.inl ⟨fun h => absurd h.2.2.1 (by omega), _, by rw [if_pos h3]; rfl⟩)
      · rw [if_neg h3]
        by_cases h4 : OUT_BYTES < s.rbase.toNat + (s.rcount.toNat - 1) * s.rstride.toNat + frameSize s
        · exact .inr (.inl ⟨fun h => absurd h.2.2.2 (by omega), _, by rw [if_pos h4]; rfl⟩)
        · rw [if_neg h4]
          have ha : s.rcount.toNat ≠ 0 ∧ s.rbase.toNat ≠ 0 ∧ frameSize s ≤ s.rstride.toNat ∧
              s.rbase.toNat + (s.rcount.toNat - 1) * s.rstride.toNat + frameSize s ≤ OUT_BYTES :=
            ⟨h1, h2, by omega, by omega⟩
          cases hp : s.pause
          · exact .inr (.inr (.inr ⟨ha, rfl, rfl⟩))
          · exact .inr (.inr (.inl ⟨ha, rfl, rfl⟩))

end Sys2Proof.Machine
end

