-- ==== Sys2Proof/Laws/Channel.lean ====
section
/-!
SUPPORT. What the channel operations of a render write (their frames), and the arithmetic they rest on: truncating
division, the Euclidean remainder, stored gains, note frequencies.
-/

namespace Sys2Proof.Machine

open Config

/-! ### Arithmetic -/

/-- `tdiv` of a value between two multiples of the divisor lies between their quotients. -/
theorem tdiv_bounds {a b lo hi : Int} (hb : 0 < b) (h1 : lo * b ≤ a) (h2 : a ≤ hi * b) (hlo : lo ≤ 0) (hhi : 0 ≤ hi) :
    lo ≤ tdiv a b ∧ tdiv a b ≤ hi := by
  unfold tdiv
  rcases le_or_gt 0 a with h | h
  · rw [Int.tdiv_eq_ediv_of_nonneg h]
    have := Int.ediv_nonneg h (le_of_lt hb)
    exact ⟨by omega, Int.ediv_le_of_le_mul hb h2⟩
  · have e : a.tdiv b = -((-a) / b) := by
      rw [← Int.tdiv_eq_ediv_of_nonneg (by omega), Int.neg_tdiv, neg_neg]
    rw [e]
    have h3 := Int.ediv_nonneg (show 0 ≤ -a by omega) (le_of_lt hb)
    have h4 : (-a) / b ≤ -lo := Int.ediv_le_of_le_mul hb (by rw [Int.neg_mul]; omega)
    omega

theorem emod_eq (a : Int) {b : Int} (h : 0 < b) : emod a b = a % b := by
  unfold emod
  rw [Int.fdiv_eq_ediv_of_nonneg _ (by omega)]
  have := Int.mul_ediv_add_emod a b
  omega

/-- A 16-bit field holds an exact integer of its range as it is. -/
theorem ofInt16_toNat {n : Int} (h0 : 0 ≤ n) (h : n < 65536) : ((BitVec.ofInt 16 n).toNat : Int) = n := by
  rw [BitVec.toNat_ofInt]; simp; omega

theorem keyIsOff_iff (ch : Channel) : ch.keyIsOff = true ↔ ch.keycnt.toInt = -1 := by
  unfold Channel.keyIsOff
  simp only [beq_iff_eq]
  constructor
  · intro h; rw [h]; rfl
  · intro h; apply BitVec.eq_of_toInt_eq; rw [h]; rfl

/-! ### Note frequencies (43_oscillator_gain.md R272, R273) -/

theorem noteFreq_bound (n : BitVec 7) : 0 ≤ noteFreq BASE12 n.toNat ∧ noteFreq BASE12 n.toNat < 2 ^ 32 := by
  revert n; decide

theorem resolveNote_toNat (ct : Vector Word NOTE_COUNT) (ch : Channel) (n : BitVec 7) :
    (ch.resolveNote ct n).toNat = ch.freqOf ct n.toNat := by
  unfold Channel.resolveNote Channel.freqOf
  split
  · rfl
  · unfold standardFreq
    rw [BitVec.toNat_ofInt]
    obtain ⟨h1, h2⟩ := noteFreq_bound n
    rw [Int.emod_eq_of_lt h1 (by simpa using h2)]

theorem bendTarget_toNat (f : CmdFields) (ch : Channel) :
    (ch.bendTarget f).toNat = if f.pbdir then ch.lastnote.toNat - 2 else min (ch.lastnote.toNat + 2) 127 := by
  have := ch.lastnote.isLt
  unfold Channel.bendTarget
  split
  · simp; omega
  · simp

/-! ### Frames of the channel operations -/

theorem applyParams_eq (ct : Vector Word NOTE_COUNT) (f : CmdFields) (ch : Channel) :
    ch.applyParams ct f = { ch with
      nvol := (ch.applyParams ct f).nvol, base := (ch.applyParams ct f).base, bent := (ch.applyParams ct f).bent,
      lastnote := (ch.applyParams ct f).lastnote } := by
  simp only [Channel.applyParams, Channel.applyVolume, Channel.applyNote, Channel.applyBend]
  (repeat' split) <;> rfl

/-- A command writes pitch, note volume, phase and key counter alone (41_command_apply.md R238). -/
theorem applied_eq (ct : Vector Word NOTE_COUNT) (w : Word) (ch : Channel) :
    ch.applied ct w = { ch with
      keycnt := (ch.applied ct w).keycnt, phase := (ch.applied ct w).phase, nvol := (ch.applied ct w).nvol,
      base := (ch.applied ct w).base, bent := (ch.applied ct w).bent, lastnote := (ch.applied ct w).lastnote } := by
  unfold Channel.applied
  simp only [Channel.applyParams, Channel.applyVolume, Channel.applyNote, Channel.applyBend, Channel.keyOn,
    Channel.keyOff]
  (repeat' split) <;> rfl

theorem fadeStep_eq (ch : Channel) : ch.fadeStep = { ch with svol := ch.fadeStep.svol } := by
  unfold Channel.fadeStep; (repeat' split) <;> rfl

/-- The envelope step writes gain, phase and key counter alone (42_envelope.md R250). -/
theorem stepEnvelope_eq (ch : Channel) :
    ch.stepEnvelope = { ch with
      gain := ch.stepEnvelope.gain, phase := ch.stepEnvelope.phase, keycnt := ch.stepEnvelope.keycnt } := by
  unfold Channel.stepEnvelope Channel.attackStep Channel.decayStep Channel.heldStep Channel.releasedStep
  simp only; (repeat' split) <;> rfl

theorem stepNoise_eq (ch : Channel) : ch.stepNoise = { ch with lfsr := ch.stepNoise.lfsr } := by
  unfold Channel.stepNoise; split <;> rfl

/-- The state changes of a sample step (43_oscillator_gain.md R286). -/
theorem frameStep_eq (ch : Channel) :
    ch.frameStep = { ch with
      gain := ch.frameStep.gain, phase := ch.frameStep.phase, keycnt := ch.frameStep.keycnt, pos := ch.frameStep.pos,
      lfsr := ch.frameStep.lfsr } := by
  have h : ∀ a b x : Channel,
      a = { ch with gain := a.gain, phase := a.phase, keycnt := a.keycnt } → b = { a with pos := b.pos } →
      x = { b with lfsr := x.lfsr } →
      x = { ch with gain := x.gain, phase := x.phase, keycnt := x.keycnt, pos := x.pos, lfsr := x.lfsr } := by
    intro a b x ha hb hx
    rw [hx, hb, ha]
  exact h _ _ _ (stepEnvelope_eq ch) rfl (stepNoise_eq _)

end Sys2Proof.Machine
end

