-- ==== Sys2Proof/Laws/Config.lean ====
section
/-!
SUPPORT. The parameter values of Config meet the constraints of 00_scope.md R7.
-/

namespace Sys2Proof.Config

theorem parameters_meet_constraints :
    (1 ≤ NUM_CH ∧ NUM_CH ≤ 16) ∧ (1 ≤ NUM_SLOTS ∧ NUM_SLOTS ≤ 255) ∧ NOISE_SEL = 0xFF ∧
    (4 ∣ WT_LEN ∧ 4 ≤ WT_LEN ∧ WT_LEN ≤ 65536) ∧ (FI ∣ 2 ^ 31 ∧ 1 ≤ FI) ∧ 1 ≤ RING_CAP ∧ 1 ≤ SCAN_LIMIT ∧
    (1 ≤ LOG_CAP ∧ LOG_CAP ≤ 65536) ∧ (GAIN_MAX ∣ 32768 ∧ GAIN_MAX ≤ 32768) ∧
    (1 ≤ GAIN_SNAP_FLOOR ∧ GAIN_SNAP_FLOOR ≤ GAIN_MAX) ∧ (1 ≤ NOISE_SEED ∧ NOISE_SEED < 2 ^ LFSR_BITS) ∧
    (1 ≤ NOISE_AMP ∧ NOISE_AMP ≤ 32767) ∧ 1 ≤ F_S ∧ 1 ≤ NUM_HARM ∧ 1 ≤ NUM_TAPS ∧
    (4 ≤ OUT_BYTES ∧ OUT_BYTES ≤ 2 ^ 32) := by
  refine ⟨?_, ?_, ?_, ⟨⟨4096, rfl⟩, ?_, ?_⟩, ⟨⟨33554432, rfl⟩, ?_⟩, ?_, ?_, ?_, ⟨⟨1, rfl⟩, ?_⟩, ?_, ?_, ?_, ?_, ?_,
    ?_, ?_⟩ <;> decide

end Sys2Proof.Config
end

