-- ==== Sys2Proof/Laws/Registers.lean ====
section
/-!
SUPPORT. What the shared endings of a register operation do, the range checks of Operands as statements about the
written number, and the instruction a generator word runs.
-/

namespace Sys2Proof.Machine

open Config

/-! ### Endings -/

@[simp] theorem storeRanged_some {α : Type} (a : α) (f : α → State → State) (s : State) :
    storeRanged (some a) f s = .next (done (f a s)) := rfl

@[simp] theorem storeRanged_none {α : Type} (f : α → State → State) (s : State) :
    storeRanged none f s = .next (fail .range s) := rfl

/-- A checked store either stores and is done, or fails with ERR_RANGE. -/
theorem storeRanged_next {α : Type} (o : Option α) (f : α → State → State) (s : State) :
    (∃ a, o = some a ∧ storeRanged o f s = .next (done (f a s))) ∨
    (o = none ∧ storeRanged o f s = .next (fail .range s)) := by
  cases o with
  | none => exact .inr ⟨rfl, rfl⟩
  | some a => exact .inl ⟨a, rfl, rfl⟩

/-- A checked channel store that passes writes the channel alone. -/
theorem chStoreRanged_some {α : Type} (c : Chan) (a : α) (f : α → Channel → Channel) (s : State) :
    ∃ t, chStoreRanged c (some a) f s = .next t ∧ ChannelWritten c s t (f a (s.ch c)) :=
  ⟨_, rfl, channelWritten_modCh c (f a) s⟩

theorem chStoreRanged_none {α : Type} (c : Chan) (f : α → Channel → Channel) (s : State) :
    chStoreRanged c none f s = .next { s with status := .range } := rfl

/-- An unchecked channel store writes the channel alone. -/
theorem chStore_next (c : Chan) (f : Channel → Channel) (s : State) :
    ∃ t, chStore c f s = .next t ∧ ChannelWritten c s t (f (s.ch c)) :=
  ⟨_, rfl, channelWritten_modCh c f s⟩

/-! ### Range checks -/

theorem indexBelow_val {n : Nat} (k : Fin n) : indexBelow n k.val = some k := by simp [indexBelow]

theorem indexBelow_ge {n k : Nat} (h : n ≤ k) : indexBelow n k = none := by simp [indexBelow, Nat.not_lt.2 h]

theorem indexBelow_lt {n k : Nat} (h : k < n) : indexBelow n k = some ⟨k, h⟩ := by simp [indexBelow, h]

theorem rateOf_le {v : Word} (h : v.toNat ≤ 0xFFFF) : rateOf v = some (BitVec.ofNat 16 v.toNat) := by
  simp only [rateOf, h, if_true]; congr 1

theorem rateOf_gt {v : Word} (h : 0xFFFF < v.toNat) : rateOf v = none := by
  simp only [rateOf, Nat.not_le.2 h, if_false]

theorem levelOf_le {v : Word} (h : v.toNat ≤ GAIN_MAX) : levelOf lsg v = some (BitVec.ofNat 16 v.toNat) := by
  simp only [levelOf, h, if_true]; congr 1

theorem levelOf_gt {v : Word} (h : GAIN_MAX < v.toNat) : levelOf lsg v = none := by
  simp only [levelOf, Nat.not_le.2 h, if_false]

theorem volumeOf_le {v : Word} (h : v.toNat ≤ 127) : volumeOf lsg v = some (BitVec.ofNat 7 v.toNat) := by
  simp only [volumeOf, VOL_MAX, h, if_true]; congr 1

theorem volumeOf_gt {v : Word} (h : 127 < v.toNat) : volumeOf lsg v = none := by
  simp only [volumeOf, VOL_MAX, Nat.not_le.2 h, if_false]

theorem genSel_slot (k : Fin NUM_SLOTS) : GenSel.ofNat lsg k.val = some (.slot k) := by
  have := k.isLt
  have h : k.val ≠ NOISE_SEL := by simp only [NUM_SLOTS, NOISE_SEL] at *; omega
  simp [GenSel.ofNat, h, indexBelow_val]

theorem genSel_noise : GenSel.ofNat lsg NOISE_SEL = some .noise := by simp [GenSel.ofNat]

theorem genSel_none {k : Nat} (h : NUM_SLOTS ≤ k) (hn : k ≠ NOISE_SEL) : GenSel.ofNat lsg k = none := by
  simp [GenSel.ofNat, hn, indexBelow_ge h]

/-- The reserved field of a command word as a number. -/
theorem cmdRsv_toNat (v : Word) : (cmdRsv v).toNat = v.toNat / 2 ^ 21 % 64 := by
  simp [cmdRsv, BitVec.extractLsb'_toNat, Nat.shiftRight_eq_div_pow]

theorem cmdRsv_eq_zero (v : Word) : cmdRsv v = 0 ↔ v.toNat / 2 ^ 21 % 64 = 0 := by
  rw [← cmdRsv_toNat]
  exact ⟨fun h => by rw [h]; rfl, fun h => BitVec.eq_of_toNat_eq h⟩

theorem wtAddrOf_ok {v : Word} (h0 : v.toNat / 2 ^ 24 = 0) (h1 : v.toNat / 2 ^ 16 % 2 ^ 8 < NUM_SLOTS)
    (h2 : v.toNat % 2 ^ 16 < WT_LEN) :
    wtAddrOf lsg v = some (⟨v.toNat / 2 ^ 16 % 2 ^ 8, h1⟩, ⟨v.toNat % 2 ^ 16, h2⟩) := by
  have e0 : v.extractLsb' 24 8 = 0 := by
    apply BitVec.eq_of_toNat_eq
    simp only [BitVec.extractLsb'_toNat, Nat.shiftRight_eq_div_pow, h0]; rfl
  have e1 : (v.extractLsb' 16 8).toNat = v.toNat / 2 ^ 16 % 2 ^ 8 := by
    simp only [BitVec.extractLsb'_toNat, Nat.shiftRight_eq_div_pow]
  have e2 : (v.extractLsb' 0 16).toNat = v.toNat % 2 ^ 16 := by
    simp only [BitVec.extractLsb'_toNat, Nat.shiftRight_zero]
  simp only [wtAddrOf, e0, e1, e2, ne_eq, not_true, if_false, indexBelow_lt h1, indexBelow_lt h2]

theorem wtAddrOf_bad {v : Word} (h : v.toNat / 2 ^ 24 ≠ 0 ∨ NUM_SLOTS ≤ v.toNat / 2 ^ 16 % 2 ^ 8 ∨
    WT_LEN ≤ v.toNat % 2 ^ 16) : wtAddrOf lsg v = none := by
  have e1 : (v.extractLsb' 16 8).toNat = v.toNat / 2 ^ 16 % 2 ^ 8 := by
    simp only [BitVec.extractLsb'_toNat, Nat.shiftRight_eq_div_pow]
  have e2 : (v.extractLsb' 0 16).toNat = v.toNat % 2 ^ 16 := by
    simp only [BitVec.extractLsb'_toNat, Nat.shiftRight_zero]
  by_cases hz : v.extractLsb' 24 8 = 0
  · have h0 : v.toNat / 2 ^ 24 = 0 := by
      have e0 : (v.extractLsb' 24 8).toNat = v.toNat / 2 ^ 24 % 2 ^ 8 := by
        simp only [BitVec.extractLsb'_toNat, Nat.shiftRight_eq_div_pow]
      have := v.isLt
      rw [hz] at e0
      have : (0 : BitVec 8).toNat = 0 := rfl
      omega
    rcases h with h | h | h
    · exact absurd h0 h
    · simp only [wtAddrOf, hz, e1, indexBelow_ge h, ne_eq, not_true, if_false]
    · simp only [wtAddrOf, hz, e2, indexBelow_ge h, ne_eq, not_true, if_false]
      split <;> simp_all
  · exact if_pos hz

/-! ### Bit-field words -/

theorem flagWord_eq (b1 b0 : Bool) : flagWord b1 b0 = BitVec.ofNat 32 (b0.toNat + 2 * b1.toNat) := by
  cases b1 <;> cases b0 <;> rfl

theorem setWidth_eq_ofNat {n : Nat} (x : BitVec n) : x.setWidth 32 = BitVec.ofNat 32 x.toNat := by
  apply BitVec.eq_of_toNat_eq; simp

theorem wtAddrWord_eq (k : Fin NUM_SLOTS) (i : Fin WT_LEN) :
    wtAddrWord k i = BitVec.ofNat 32 (k.val * 2 ^ 16 + i.val) := by
  have hk := k.isLt
  have hi := i.isLt
  simp only [NUM_SLOTS, WT_LEN] at hk hi
  apply BitVec.eq_of_toNat_eq
  have : (wtAddrWord k i).toNat = ((0 : BitVec 8) ++ BitVec.ofNat 8 k.val ++ BitVec.ofNat 16 i.val).toNat := rfl
  rw [this, BitVec.toNat_append, BitVec.toNat_append]
  simp only [BitVec.toNat_ofNat, BitVec.ofNat_eq_ofNat, Nat.zero_mod, Nat.zero_shiftLeft, Nat.zero_or]
  rw [Nat.mod_eq_of_lt (show k.val < 2 ^ 8 by omega), Nat.mod_eq_of_lt (show i.val < 2 ^ 16 by omega),
    Nat.mod_eq_of_lt (show k.val * 2 ^ 16 + i.val < 2 ^ 32 by omega), ← Nat.shiftLeft_add_eq_or_of_lt (by omega),
    Nat.shiftLeft_eq]

theorem portOut_toInt (x : Sample) : (portOut x).toInt = x.toInt := by
  simp [portOut, BitVec.toInt_signExtend_of_le]

theorem portIn_eq (v : Word) : portIn v = BitVec.ofNat 16 v.toNat := by
  apply BitVec.eq_of_toNat_eq; simp [portIn]

theorem nextIdx_val {n : Nat} [NeZero n] (k : Fin n) : (nextIdx k).val = (k.val + 1) % n := rfl

/-! ### Generator words -/

/-- A generator word written to GCMD runs the instruction it decodes to. -/
theorem runGenerator_of_decode {v : Word} {i : Instr} (h : decode (.generator v) = .ok i) (s : State) :
    runGenerator v s = exec i s := by
  rw [decode_generator] at h
  split at h
  · simp at h
  · next hr =>
    rw [runGenerator, if_neg hr]
    split at h
    · next j hj =>
      simp only [Except.ok.injEq] at h
      subst h
      unfold genInstr at hj
      split at hj <;> simp only [Option.some.injEq, reduceCtorEq] at hj <;> subst hj <;>
        simp_all only [exec]
    · simp at h

/-- A generator word that decodes to nothing is malformed. -/
theorem runGenerator_malformed {v : Word} (h : ∀ i : Instr, decode (.generator v) ≠ .ok i) (s : State) :
    runGenerator v s = .next (fail .malformed s) := by
  unfold runGenerator
  split
  · rfl
  · next hr =>
    rw [decode_generator, if_neg hr] at h
    split <;> first | rfl | (next ho => simp [ho, genInstr] at h)

end Sys2Proof.Machine
end

