-- ==== Sys2Proof/Laws/Generator.lean ====
section
/-!
SUPPORT. What a generator operation writes, and the sums and the noise run of the waveforms in closed form.
-/

namespace Sys2Proof.Machine

open Config

/-! ### The shared ending of a generator operation -/

/-- A generator operation on a slot that is there, its arguments accepted, fills the slot. -/
theorem generate_ok {dst : BitVec 8} (hd : dst.toNat < NUM_SLOTS) (wave : Fin WT_LEN → Sample) (s : State) :
    generate dst true wave s =
      .next { s with status := .ok, wt := s.wt.set dst.toNat (Vector.ofFn wave) hd } := by
  simp only [generate, indexBelow_lt hd, if_true]
  rfl

theorem generate_bad_slot {dst : BitVec 8} (hd : NUM_SLOTS ≤ dst.toNat) (ok : Bool) (wave : Fin WT_LEN → Sample)
    (s : State) : generate dst ok wave s = .next { s with status := .range } := by
  simp only [generate, indexBelow_ge hd]
  rfl

theorem generate_bad_args (dst : BitVec 8) (wave : Fin WT_LEN → Sample) (s : State) :
    generate dst false wave s = .next { s with status := .range } := by
  unfold generate
  split <;> rfl

/-- A generator operation writes the wavetables and the status alone. -/
theorem generate_eq {dst : BitVec 8} {ok : Bool} {wave : Fin WT_LEN → Sample} {s t : State}
    (h : generate dst ok wave s = .next t) : t = { s with wt := t.wt, status := t.status } := by
  unfold generate at h
  split at h
  · cases h; rfl
  · split at h <;> cases h <;> rfl

/-- The samples after a generator operation, as exact integers. -/
theorem slotWritten_of_wave {dst : BitVec 8} (hd : dst.toNat < NUM_SLOTS) {f : Fin WT_LEN → Sample} {g : Nat → Int}
    (h : ∀ i : Fin WT_LEN, (f i).toInt = g i.val) (s : State) :
    SlotWritten dst s { s with status := .ok, wt := s.wt.set dst.toNat (Vector.ofFn f) hd } g := by
  refine ⟨rfl, fun k i => ?_⟩
  simp only [Fin.getElem_fin, Vector.getElem_set]
  by_cases hk : dst.toNat = k.val
  · simp only [if_pos hk, if_pos hk.symm, Vector.getElem_ofFn]
    exact h i
  · simp only [if_neg hk, if_neg (Ne.symm hk)]

/-- An exact integer in the int16 range is stored as it is. -/
theorem toSample_toInt {v : Int} (h1 : -32768 ≤ v) (h2 : v ≤ 32767) : (toSample v).toInt = v := by
  unfold toSample
  rw [BitVec.toInt_ofInt, Int.bmod_eq_of_le] <;> omega

theorem clamp16_bounds (v : Int) : -32768 ≤ clamp16 v ∧ clamp16 v ≤ 32767 := by
  unfold clamp16 clamp; omega

theorem toSample_clamp16 (v : Int) : (toSample (clamp16 v)).toInt = clamp v (-32768) 32767 :=
  toSample_toInt (clamp16_bounds v).1 (clamp16_bounds v).2

/-! ### Sums -/

theorem finRange_sum {n : Nat} (f : Fin n → Int) : ((List.finRange n).map f).sum = ∑ k : Fin n, f k := by
  rw [← List.ofFn_eq_map, List.sum_ofFn]

theorem harmonicSum_eq {n : Nat} (hn : n ≤ NUM_HARM) (hc : Vector Sample NUM_HARM) (i : Nat) :
    harmonicSum lsg hc n i =
      ∑ h ∈ Finset.range n, (hc[Fin.ofNat NUM_HARM h]).toInt * sinRom ((h + 1) * i % WT_LEN) := by
  unfold harmonicSum
  rw [finRange_sum, Finset.sum_ite, Finset.sum_const_zero, add_zero]
  refine Finset.sum_bij (fun k _ => k.val) ?_ ?_ ?_ ?_
  · intro k hk
    exact Finset.mem_range.2 (Finset.mem_filter.1 hk).2
  · intro a _ b _ h
    exact Fin.ext h
  · intro h hh
    have hlt := Finset.mem_range.1 hh
    exact ⟨⟨h, Nat.lt_of_lt_of_le hlt hn⟩, by simpa using hlt, rfl⟩
  · intro k _
    have : (Fin.ofNat NUM_HARM k.val) = k := Fin.ext (Nat.mod_eq_of_lt k.isLt)
    simp only [this]

theorem filterSum_eq (tap : Vector Sample NUM_TAPS) (old : Vector Sample WT_LEN) (i : Nat) :
    filterSum lsg tap old i =
      ∑ j ∈ Finset.range NUM_TAPS,
        (tap[Fin.ofNat NUM_TAPS j]).toInt * (old[Fin.ofNat WT_LEN (i + j * FILTER_STRIDE)]).toInt := by
  unfold filterSum
  rw [finRange_sum, Finset.sum_range]
  refine Finset.sum_congr rfl fun j _ => ?_
  have : (Fin.ofNat NUM_TAPS j.val) = j := Fin.ext (Nat.mod_eq_of_lt j.isLt)
  simp only [this]
  rfl

theorem mix_eq (s : State) : mix s = ∑ c : Chan, (s.ch c).contrib s.wt := finRange_sum _

/-! ### The noise run -/

theorem lfsrRun_length (n : Nat) (r : BitVec LFSR_BITS) : (lfsrRun lfsrStep n r).length = n := by
  induction n generalizing r with
  | zero => rfl
  | succ n ih => simp [lfsrRun, ih]

/-- Entry `k` of the run is the register after `k + 1` steps. -/
theorem lfsrRun_getElem? {n k : Nat} (h : k < n) (r : BitVec LFSR_BITS) :
    (lfsrRun lfsrStep n r)[k]? = some (lfsrStep^[k + 1] r) := by
  induction n generalizing k r with
  | zero => omega
  | succ n ih =>
    cases k with
    | zero => rfl
    | succ k =>
      simp only [lfsrRun, List.getElem?_cons_succ]
      rw [ih (by omega), Function.iterate_succ_apply _ (k + 1)]

theorem genRegisters_getD {k : Nat} (h : k < WT_LEN) :
    (genRegisters lsg).getD k 0 = lfsrStep^[k + 1] (BitVec.ofNat LFSR_BITS NOISE_SEED) := by
  unfold genRegisters
  rw [Array.getD_eq_getD_getElem?, List.getElem?_toArray, lfsrRun_getElem? h]
  rfl

end Sys2Proof.Machine
end

