-- ==== Sys2Proof/Tests/Slice0.lean ====
section
/-!
SUPPORT. The model's own tests: the WellFormed smoke test, words and accesses written out bit by bit from the spec's
encodings, one or two small steps per instruction with results taken from spec/95_test_vectors.md (its ids stand in the
comments) or worked out by hand from the rule, and for every statement with hypotheses a witness that meets them.
-/

namespace Sys2Proof.Tests

open Sys2Proof.Machine Sys2Proof.Config

/-! ### Helpers -/

/-- The state after one instruction. -/
def after (i : Instr) (s : State) : State :=
  match exec i s with
  | .next t => t
  | .fault _ => s
  | .refused _ => s

/-- The state after one step. -/
def stepped (s : State) : State :=
  match step s with
  | .next t => t
  | .fault _ => s
  | .refused _ => s

/-- Whether a step gives a next state. -/
def stepsOn (s : State) : Bool :=
  match step s with
  | .next _ => true
  | .fault _ => false
  | .refused _ => false

/-- The power-on state with channel 0 replaced. -/
def withCh (ch : Channel) : State := State.reset.setCh 0 ch

/-- A command's fields with nothing present. -/
def noFields : CmdFields := { volp := false, pbp := false, rsv := 0, vol := 0, pbdir := false, pbmag := 0, note := 0 }

/-- `note=60 vol=127`. -/
def note60 : CmdFields := { noFields with volp := true, vol := 127, note := 60 }

/-- The two-entry looped log of V-LOG-1, bound. -/
def loopedChannel : Channel :=
  { Channel.reset with
    log := [⟨100, 0xD019003C⟩, ⟨300, 0x80000000⟩]
    bound := true
    loopEn := true
    loopLast := 1
    loopStart := 100
    loopEnd := 500 }

/-- The render registers of a mono render of `n` frames at `base`. -/
def renderOf (base n : Word) (s : State) : State := { s with rbase := base, rcount := n, rstride := 2 }

/-! ### WellFormed -/

theorem test_wellFormed_accepts : (Instr.keyon (P := lsg) 12 (2 ^ 32 - 1) note60).wellFormed = true := by decide

/-- 30_encoding.md R143: a nonzero reserved field is refused. -/
theorem test_wellFormed_refuses_reserved_bits :
    (Instr.nop (P := lsg) 0 0 false false { noFields with rsv := 1 }).wellFormed = false ∧
    (Instr.keyon (P := lsg) 0 0 { noFields with rsv := 1 }).wellFormed = false ∧
    (Instr.keyoff (P := lsg) 0 0 { noFields with rsv := 32 }).wellFormed = false ∧
    (Instr.param (P := lsg) 0 0 true { noFields with rsv := 63 }).wellFormed = false := by decide

/-- 10_state.md R31: no render has a frame 2^32. -/
theorem test_wellFormed_refuses_frame_index :
    (Instr.nop (P := lsg) 0 (2 ^ 32) false false noFields).wellFormed = false ∧
    (Instr.keyon (P := lsg) 0 (2 ^ 32) noFields).wellFormed = false ∧
    (Instr.keyoff (P := lsg) 0 (2 ^ 32) noFields).wellFormed = false ∧
    (Instr.param (P := lsg) 0 (2 ^ 32) false noFields).wellFormed = false := by decide

/-! ### Decoding, words written out bit by bit -/

/-- 30_encoding.md R141, R145: EN KON NOKEY VOLP PBP, RSV, VOL, PBDIR, PBMAG, NOTE. -/
theorem test_decode_command_words :
    decode (P := lsg) (.command 0 0 0b0_1_1_1_1_000000_1111111_1_111111_1111111) =
      .ok (.nop 0 0 true true ⟨true, true, 0, 127, true, 63, 127⟩) ∧
    decode (P := lsg) (.command 3 7 0b1_1_0_1_0_000000_1111111_0_000000_0111100) =
      .ok (.keyon 3 7 ⟨true, false, 0, 127, false, 0, 60⟩) ∧
    decode (P := lsg) (.command 3 7 0b1_0_0_1_0_000000_0000000_0_000000_0000000) =
      .ok (.keyoff 3 7 ⟨true, false, 0, 0, false, 0, 0⟩) ∧
    decode (P := lsg) (.command 3 7 0b1_0_1_0_1_000000_0000000_1_111111_0000101) =
      .ok (.param 3 7 false ⟨false, true, 0, 0, true, 63, 5⟩) ∧
    decode (P := lsg) (.command 3 7 0b1_1_1_0_1_000000_0000000_0_000001_0000000) =
      .ok (.param 3 7 true ⟨false, true, 0, 0, false, 1, 0⟩) ∧
    decode (P := lsg) (.command 0 0 0b1_0_0_0_0_000001_0000000_0_000000_0000000) = .error (.word .reservedCommandBits) := by
  decide

/-- 30_encoding.md R160, R161: SRCB, SRCA, DST, GRSV, OP. -/
theorem test_decode_generator_words :
    decode (P := lsg) (.generator 0b00000000_00000000_00010000_0000_0000) = .ok (.genSilence 16 0 0) ∧
    decode (P := lsg) (.generator 0b00000000_00000000_00000000_0000_0001) = .ok (.genSquare50 0 0 0) ∧
    decode (P := lsg) (.generator 0b00000000_00000000_00000001_0000_0010) = .ok (.genSquare25 1 0 0) ∧
    decode (P := lsg) (.generator 0b00000001_00000010_00000011_0000_0011) = .ok (.genSineadd 3 2 1) ∧
    decode (P := lsg) (.generator 0b00000000_00000000_00000000_0000_0100) = .ok (.genNoiseburst 0 0 0) ∧
    decode (P := lsg) (.generator 0b00000000_00000000_00000001_0000_0101) = .ok (.genTriangle 1 0 0) ∧
    decode (P := lsg) (.generator 0b11111111_00000000_00000010_0000_0110) = .ok (.genMix 2 0 255) ∧
    decode (P := lsg) (.generator 0b00000000_00000000_00001111_0000_0111) = .ok (.genFilter 15 0 0) ∧
    decode (P := lsg) (.generator 0b00000000_00000000_00000000_0000_1000) = .error (.word .reservedGeneratorOp) ∧
    decode (P := lsg) (.generator 0b00000000_00000000_00000000_0001_0000) = .error (.word .reservedGeneratorBits) := by decide

/-- 10_state.md R55: `a[12] = 0`, the offset of a global register. -/
theorem test_decode_global_registers :
    decode (P := lsg) (.bus (.write .word 0b0_0000_0000_0000 3)) = .ok (.wrCtrl 3) ∧
    decode (P := lsg) (.bus (.read .word 0b0_0000_0000_0100)) = .ok .rdStatus ∧
    decode (P := lsg) (.bus (.write .word 0b0_0000_0010_0000 0)) = .ok (.wrRgo 0) ∧
    decode (P := lsg) (.bus (.write .word 0b0_0000_0100_0100 5)) = .ok (.wrWtdata 5) ∧
    decode (P := lsg) (.bus (.read .word 0b0_0000_0101_1100)) = .ok .rdTapdata := by decide

/-- 10_state.md R54, R56 to R58: `a[12] = 1`, the channel in `a[11:8]`, the offset in `a[7:0]`. -/
theorem test_decode_channel_registers :
    decode (P := lsg) (.bus (.write .word 0b1_0000_0000_0000 9)) = .ok (.wrChGensel 0 9) ∧
    decode (P := lsg) (.bus (.write .word 0b1_1100_0011_0100 9)) = .ok (.wrChSchcmd 12 9) ∧
    decode (P := lsg) (.bus (.read .word 0b1_0101_0110_1100)) = .ok (.rdChLogcmd 5) ∧
    decode (P := lsg) (.bus (.read .word 0b1_0001_1010_0100)) = .ok (.rdChRinghead 1) ∧
    decode (P := lsg) (.bus (.read .word 0b1_1101_0000_0000)) = .error (.access .absentChannel) ∧
    decode (P := lsg) (.bus (.read .word 0b1_0000_0111_0000)) = .error (.access .unmapped) ∧
    decode (P := lsg) (.bus (.read .half 0b0_0000_0000_0000)) = .error (.access .notAWord) ∧
    decode (P := lsg) (.bus (.read .word 0b0_0000_0000_0010)) = .error (.access .misaligned) := by decide

/-- The table's words, placed where the next step performs them, run as the first instruction after reset. -/
theorem test_withFetchWord_runs :
    stepsOn (State.reset.withFetchWord 32 0xC0000000) = true ∧
    stepsOn (State.reset.withFetchWord 8 0x06) = true ∧
    (stepped (State.reset.withFetchWord 16 0x1084)).status = .generic ∧
    (stepped (State.reset.withFetchWord 16 0x30A4)).rdata = 0 := by decide +kernel

/-! ### Command words (V-APP) -/

/-- V-APP-12. -/
theorem test_nop_applies_nothing :
    (stepped (State.reset.withFetchWord 32 0x781FFFFF)).ch 0 =
      { Channel.reset with head := 1 } := by decide +kernel

/-- V-APP-1. -/
theorem test_keyon :
    let ch := (after (.keyon 0 0 note60) State.reset).ch 0
    ch.keycnt = 0 ∧ ch.phase = .attack ∧ ch.nvol = 127 ∧ ch.base = 17145896 ∧ ch.bent = 17145896 ∧
      ch.lastnote = 60 ∧ ch.gain = 0 := by decide

/-- V-APP-9: the target note of a bend is clamped to 127. -/
theorem test_keyon_bend_clamped :
    let ch := (after (.keyon 0 0 { noFields with note := 127, pbp := true, pbmag := 63 }) State.reset).ch 0
    ch.base = 822074112 ∧ ch.bent = 822074112 := by decide

/-- V-APP-7: the phase stays. -/
theorem test_keyoff :
    let ch := (after (.keyoff 0 0 noFields) (after (.keyon 0 0 note60) State.reset)).ch 0
    ch.keycnt = 0xFFFFFFFF ∧ ch.phase = .attack := by decide

/-- V-APP-3, V-APP-4, V-APP-5, V-APP-10: bends after KEYON note=60, and of note 1. -/
theorem test_param_bends :
    let s := after (.keyon 0 0 note60) State.reset
    ((after (.param 0 0 false { noFields with pbp := true, pbmag := 32 }) s).ch 0).bent = 18212420 ∧
    ((after (.param 0 0 false { noFields with pbp := true, pbdir := true, pbmag := 63 }) s).ch 0).bent = 15275256 ∧
    ((after (.param 0 0 false { noFields with pbp := true, pbdir := true, pbmag := 1 }) s).ch 0).bent = 17116204 ∧
    ((after (.keyon 0 0 { noFields with note := 1, pbp := true, pbdir := true, pbmag := 63 }) s).ch 0).bent
      = 535809 := by decide

/-- V-APP-14: only an enabled word leaves a record. -/
theorem test_param_observed :
    (after (.nop 0 6 false false noFields)
      (after (.param 0 5 false noFields) (withCh { Channel.reset with obs := true }))).trace =
      [⟨0, 0xA0000000, 5⟩] := by decide

/-! ### Generator operations (V-GEN) -/

/-- V-GEN-R3: the slot check; a good slot is done. -/
theorem test_silence_checks_slot :
    (after (.genSilence 16 0 0) State.reset).status = .range ∧
    (after (.genSilence 15 0 0) { State.reset with status := .full }).status = .ok := by decide

/-- V-GEN-1 and V-GEN-R5. -/
theorem test_square50 :
    (squareAt (WT_LEN / 2) 16384 8191 = 16384 ∧ squareAt (WT_LEN / 2) 16384 8192 = -16384) ∧
    (after (.genSquare50 0 0 0) { State.reset with garg1 := 32768 }).status = .range := by decide

/-- V-GEN-2. -/
theorem test_square25 :
    (squareAt (WT_LEN / 4) 1000 4095 = 1000 ∧ squareAt (WT_LEN / 4) 1000 4096 = -1000) ∧
    (after (.genSquare25 0 0 0) { State.reset with garg1 := 32768 }).status = .range := by decide

/-- V-GEN-5: the sine table, and the checks V-GEN-R6 to R8. -/
theorem test_sineadd :
    (sinRom 0 = 0 ∧ sinRom 4096 = 32767 ∧ sinRom 8192 = 0 ∧ sinRom 12288 = -32767) ∧
    clamp16 (tdiv (32767 * (32767 * sinRom 2048)) (2 ^ 30)) = 23168 ∧
    (after (.genSineadd 0 0 0) State.reset).status = .range ∧
    (after (.genSineadd 0 0 0) { State.reset with garg0 := 33 }).status = .range ∧
    (after (.genSineadd 0 0 0) { State.reset with garg0 := 1, garg1 := 40000 }).status = .range := by decide

/-- V-LFSR-1: the generation register; V-GEN-R9 and R10. -/
theorem test_noiseburst :
    lfsrRun lfsrStep 16 1 = [0x4000, 0x2000, 0x1000, 0x0800, 0x0400, 0x0200, 0x0100, 0x0080, 0x0040, 0x0020, 0x0010, 0x0008,
      0x0004, 0x0002, 0x4001, 0x6000] ∧
    (after (.genNoiseburst 0 0 0) State.reset).status = .range ∧
    (after (.genNoiseburst 0 0 0) { State.reset with garg0 := 16385 }).status = .range := by decide

/-- V-GEN-3 and V-GEN-4. -/
theorem test_triangle :
    [0, 1, 2048, 4095, 4096, 4097, 8192, 12288, 16383].map (triangleAt lsg 32767) =
      [0, 7, 16383, 32759, 32767, 32759, 0, -32767, -7] ∧
    [1, 40, 41, 4096, 6000, 12288].map (triangleAt lsg 100) = [0, 0, 1, 100, 53, -100] := by decide

/-- V-GEN-13's first sample, and V-GEN-R11 to R13. -/
theorem test_mix :
    tdiv (200 + 16384) 2 = 8292 ∧ tdiv (-3) 2 = -1 ∧
    (after (.genMix 0 16 0) State.reset).status = .range ∧ (after (.genMix 0 0 17) State.reset).status = .range ∧
    (after (.genMix 0 255 0) { State.reset with garg1 := 32768 }).status = .range := by decide

/-- The filter clamps (V-GEN-17), and the slot check. -/
theorem test_filter :
    clamp16 (tdiv (0x4000 * 30000 + 0x4000 * 30000) 16384) = 32767 ∧
    (after (.genFilter 255 0 0) State.reset).status = .range := by decide

/-! ### Global registers (V-HOST, V-REN) -/

/-- V-HOST-30. -/
theorem test_ctrl :
    (after (.wrCtrl 3) { State.reset with tick := 9 }).tick = 0 ∧
    (after .rdCtrl (after (.wrCtrl 3) State.reset)).rdata = 1 := by decide

/-- V-HOST-1 and V-HOST-31. -/
theorem test_status :
    (after (.wrStatus 0) State.reset).status = .generic ∧
    (after .rdStatus { State.reset with status := .full }).rdata = 3 := by decide

theorem test_tick_and_render_registers :
    (after .rdTick (after (.wrTick 0xFFFFFFFF) State.reset)).rdata = 0xFFFFFFFF ∧
    (after .rdRbase (after (.wrRbase 0x1000) State.reset)).rdata = 0x1000 ∧
    (after .rdRcount (after (.wrRcount 0x190) State.reset)).rdata = 0x190 ∧
    (after .rdRstride (after (.wrRstride 2) State.reset)).rdata = 2 ∧
    (after .rdRfmt (after (.wrRfmt 0xFFFFFFFE) State.reset)).rdata = 2 := by decide

theorem test_generator_registers :
    (after .rdGarg0 (after (.wrGarg0 5) State.reset)).rdata = 5 ∧
    (after .rdGarg1 (after (.wrGarg1 0x4000) State.reset)).rdata = 0x4000 ∧
    (after .rdGcmd { State.reset with rdata := 7 }).rdata = 0 ∧
    (after (.wrGcmd 0x00000008) State.reset).status = .malformed ∧
    (after (.wrGcmd 0x00000010) State.reset).status = .malformed ∧
    (after (.wrGcmd 0x0000FF00) State.reset).status = .range := by decide

/-- V-REN-1, V-REN-3, V-REN-4, V-REN-7. -/
theorem test_rgo_checks :
    (after (.wrRgo 0) { State.reset with status := .generic }).status = .generic ∧
    (after (.wrRgo 0) (renderOf 0 16 State.reset)).status = .null ∧
    (after (.wrRgo 0) { renderOf 0x100 1 State.reset with rstride := 1 }).status = .malformed ∧
    (after (.wrRgo 0) (renderOf 0xFFFFF 1 State.reset)).status = .range ∧
    (after .rdRgo { State.reset with rdata := 7 }).rdata = 0 := by decide

/-- V-REN-17: two channels at +16384 saturate; V-REN-10: big-endian bytes. -/
theorem test_rgo_output :
    clamp16 (16384 + 16384) = 32767 ∧
    (writeSample 0x200 0x1234 { State.reset with rbig := true }).out = [(0x200, 0x12), (0x201, 0x34)] ∧
    (writeSample 0x200 0x1234 State.reset).out = [(0x200, 0x34), (0x201, 0x12)] := by decide

/-! ### Data ports (V-HOST-16 to V-HOST-21) -/

theorem test_wavetable_port :
    (after (.wrWtaddr 0x00100000) State.reset).status = .range ∧
    (after .rdWtaddr (after (.wrWtaddr 0x000F3FFF) State.reset)).rdata = 0x000F3FFF ∧
    (after (.wrWtdata 0) (after (.wrWtaddr 0x3FFF) State.reset)).wtIdx = 0 ∧
    (let s := after (.wrWtaddr 0) (after (.wrWtdata 0x12348000) State.reset)
     (after .rdWtdata s).rdata = 0xFFFF8000) := by decide +kernel

theorem test_harmonic_port :
    (after (.wrHcaddr 32) State.reset).status = .range ∧
    (after .rdHcaddr (after (.wrHcdata 0xFFFF) (after (.wrHcaddr 31) State.reset))).rdata = 0 ∧
    (after .rdHcdata (after (.wrHcaddr 0) (after (.wrHcdata 0xFFFF) State.reset))).rdata = 0xFFFFFFFF := by
  decide +kernel

theorem test_custom_table_port :
    (after (.wrCtaddr 128) State.reset).status = .range ∧
    (after .rdCtaddr (after (.wrCtdata 6553600) (after (.wrCtaddr 60) State.reset))).rdata = 61 ∧
    (after .rdCtdata (after (.wrCtaddr 0) (after (.wrCtdata 6553600) State.reset))).rdata = 6553600 := by
  decide +kernel

/-- V-RST: `TAPDATA` at `TAPADDR = 0`. -/
theorem test_tap_port :
    (after (.wrTapaddr 4) State.reset).status = .range ∧
    (after .rdTapdata State.reset).rdata = 0x4000 ∧
    (after .rdTapaddr (after (.wrTapdata 0x2000) (after (.wrTapaddr 3) State.reset))).rdata = 0 := by decide +kernel

/-! ### Channel configuration (V-HOST-9 to V-HOST-14, V-HOST-22, V-HOST-23) -/

theorem test_gensel :
    (after (.wrChGensel 0 16) State.reset).status = .range ∧
    (after (.rdChGensel 0) (after (.wrChGensel 0 0xFF) State.reset)).rdata = 0xFF := by decide

theorem test_adsr_registers :
    (after (.wrChAttack 1 0x10000) State.reset).status = .range ∧
    (after (.rdChAttack 1) (after (.wrChAttack 1 0xFFFF) State.reset)).rdata = 0xFFFF ∧
    (after (.rdChDecay 1) (after (.wrChDecay 1 2) State.reset)).rdata = 2 ∧
    (after (.wrChSustain 1 32769) State.reset).status = .range ∧
    (after (.rdChSustain 1) (after (.wrChSustain 1 3) State.reset)).rdata = 3 ∧
    (after (.rdChRelease 1) (after (.wrChRelease 1 4) State.reset)).rdata = 4 ∧
    (after (.rdChFaderate 1) (after (.wrChFaderate 1 5) State.reset)).rdata = 5 := by decide

theorem test_detune_register :
    ((after (.wrChDetune 2 0xFFF60000) State.reset).ch 2).detune.toInt = -655360 ∧
    (after (.rdChDetune 2) (after (.wrChDetune 2 0xFFF60000) State.reset)).rdata = 0xFFF60000 := by decide

theorem test_volume_registers :
    (after (.wrChVolume 0 128) State.reset).status = .range ∧
    (after (.rdChVolume 0) (after (.wrChVolume 0 64) State.reset)).rdata = 64 ∧
    (let s := after (.wrChFadetgt 0 20) (after (.wrChSysvol 0 100) State.reset)
     (after (.rdChSysvol 0) s).rdata = 100 ∧ (after (.rdChFadetgt 0) s).rdata = 20) := by decide

theorem test_noteoff_and_chctrl :
    (let ch := (after (.wrChNoteoff 0 7) (withCh { Channel.reset with gain := 9, keycnt := 3, phase := .attack })).ch 0
     ch.gain = 0 ∧ ch.keycnt = KEY_OFF ∧ ch.phase = .sr) ∧
    (after (.rdChNoteoff 0) { State.reset with rdata := 7 }).rdata = 0 ∧
    (after (.rdChChctrl 0) (after (.wrChChctrl 0 0xFFFFFFFE) State.reset)).rdata = 2 := by decide

/-! ### Channel scheduling (V-RING, V-LOG, V-HOST-24 to V-HOST-29) -/

/-- V-RING-5 to V-RING-8. -/
theorem test_schedule :
    (after (.wrChSchcmd 0 1) (after (.wrChSchofs 0 64) State.reset)).status = .full ∧
    (after (.wrChSchcmd 0 0x80200000) State.reset).status = .malformed ∧
    (let s := after (.wrChSchcmd 0 0xC000003C) (after (.wrChSchofs 0 63) State.reset)
     let t := after (.wrChSchcmd 0 0x80000000) (after (.wrChSchofs 0 5) s)
     (s.ch 0).ring[63] = 0xC000003C ∧ (t.ch 0).ring[5] = 0x80000000 ∧ (t.ch 0).ring[63] = 0 ∧
       (after (.rdChSchofs 0) t).rdata = 5 ∧ (after (.rdChSchcmd 0) t).rdata = 0) := by decide +kernel

theorem test_ring_peek :
    (after (.wrChRingidx 0 64) State.reset).status = .range ∧
    (after (.wrChRingdata 0 1) State.reset).status = .generic ∧
    (let s := after (.wrChRingidx 0 3) (after (.wrChSchcmd 0 0x80000000) (after (.wrChSchofs 0 3) State.reset))
     (after (.rdChRingdata 0) s).rdata = 0x80000000 ∧ (after (.rdChRingidx 0) s).rdata = 3) := by decide +kernel

/-- V-HOST-24 to V-HOST-26. -/
theorem test_append :
    let s := after (.wrChAppcmd 0 0xC0000003) (after (.wrChApptick 0 100) State.reset)
    let t := after (.wrChAppcmd 0 0xC0000003) (after (.wrChApptick 0 50) s)
    let u := after (.wrChAppcmd 0 0xC0000003) (after (.wrChApptick 0 100) t)
    (s.status, t.status, u.status) = (.ok, .malformed, .ok) ∧
    (after (.rdChLogcount 0) t).rdata = 1 ∧ (after (.rdChLogcount 0) u).rdata = 2 ∧
    (after (.rdChApptick 0) u).rdata = 100 ∧ (after (.rdChAppcmd 0) u).rdata = 0 ∧
    (after (.wrChAppcmd 0 0x00200000) State.reset).status = .malformed := by decide

/-- V-HOST-27. -/
theorem test_log_peek :
    let s := withCh { Channel.reset with log := [⟨0, 0⟩, ⟨100, 0xC0000003⟩] }
    let t := after (.wrChLogidx 0 1) s
    let u := after (.wrChLogidx 0 2) s
    (after (.rdChLogtick 0) t).rdata = 100 ∧ (after (.rdChLogcmd 0) t).rdata = 0xC0000003 ∧
    (after (.rdChLogidx 0) u).rdata = 2 ∧ (after (.rdChLogtick 0) u).rdata = 0 ∧ (after (.rdChLogcmd 0) u).rdata = 0 ∧
    (after (.wrChLogtick 0 1) s).status = .generic ∧ (after (.wrChLogcmd 0 1) s).status = .generic ∧
    (after (.wrChLogidx 0 4096) s).status = .range := by decide +kernel

/-- V-HOST-29. -/
theorem test_logctrl :
    let s := after (.wrChLogctrl 0 0xF) (withCh { loopedChannel with cursor := 20 })
    (after (.rdChLogctrl 0) s).rdata = 3 ∧ (after (.rdChLogcount 0) s).rdata = 0 ∧
    (after (.rdChLogcursor 0) s).rdata = 0 ∧
    (after (.wrChLogcount 0 1) s).status = .generic ∧ (after (.wrChLogcursor 0 1) s).status = .generic := by decide

theorem test_loop_registers :
    (after (.wrChLoopfirst 0 4096) State.reset).status = .range ∧
    (after (.wrChLooplast 0 4096) State.reset).status = .range ∧
    (after (.rdChLoopfirst 0) (after (.wrChLoopfirst 0 4095) State.reset)).rdata = 4095 ∧
    (after (.rdChLooplast 0) (after (.wrChLooplast 0 1) State.reset)).rdata = 1 ∧
    (after (.rdChLoopstart 0) (after (.wrChLoopstart 0 100) State.reset)).rdata = 100 ∧
    (after (.rdChLoopend 0) (after (.wrChLoopend 0 500) State.reset)).rdata = 500 := by decide

/-- V-LOG-1: the cursor, and the words at offsets 1, 4 and 60. -/
theorem test_fill_loops :
    let ch := loopedChannel.fill 0
    ch.cursor = 20 ∧ ch.slotAt 1 = 0xD019003C ∧ ch.slotAt 4 = 0x80000000 ∧ ch.slotAt 60 = 0x80000000 ∧
      ch.slotAt 61 = 0 := by decide +kernel

/-! ### Channel status and the sample path (V-RST, V-ENV, V-OSC, V-GAIN) -/

theorem test_status_registers_after_reset :
    (after (.rdChEnvphase 12) State.reset).rdata = 2 ∧ (after (.rdChGain 12) State.reset).rdata = 0 ∧
    (after (.rdChKeycnt 12) State.reset).rdata = 0xFFFFFFFF ∧ (after (.rdChNotevol 12) State.reset).rdata = 127 ∧
    (after (.rdChBasefreq 12) State.reset).rdata = 0 ∧ (after (.rdChBentfreq 12) State.reset).rdata = 0 ∧
    (after (.rdChLastnote 12) State.reset).rdata = 0 ∧ (after (.rdChOscpos 12) State.reset).rdata = 0 ∧
    (after (.rdChLfsr 12) State.reset).rdata = 1 ∧ (after (.rdChRinghead 12) State.reset).rdata = 0 := by decide

theorem test_status_registers_refuse_writes :
    ∀ i ∈ [Instr.wrChEnvphase 0 1, .wrChGain 0 1, .wrChKeycnt 0 1, .wrChNotevol 0 1, .wrChBasefreq 0 1,
        .wrChBentfreq 0 1, .wrChLastnote 0 1, .wrChOscpos 0 1, .wrChLfsr 0 1, .wrChRinghead 0 1],
      (after i State.reset).status = .generic := by decide

/-- The states after each step, `(gain, phase, keycnt)`. -/
def envelopeTrace : Nat → Channel → List (Nat × Phase × Int)
  | 0, _ => []
  | n + 1, ch =>
    let x := ch.stepEnvelope
    (x.gain.toNat, x.phase, x.keycnt.toInt) :: envelopeTrace n x

/-- V-ENV-1: attack, decay, the held fade, the snap and the release. -/
theorem test_envelope_whole_cycle :
    envelopeTrace 10 { Channel.reset with
      atk := 16384, dec := 8192, sus := 16384, rel := 4096, fade := 4096, phase := .attack, keycnt := 0 } =
      [(16384, .attack, 0), (32768, .decay, 0), (24576, .decay, 0), (16384, .sr, 1), (12288, .sr, 2), (8192, .sr, 3),
       (4096, .sr, 4), (0, .sr, 5), (1, .sr, -1), (0, .sr, -1)] := by decide

/-- V-ENV-4 and V-ENV-11: the decay floor; the saturating counter. -/
theorem test_envelope_corners :
    envelopeTrace 1 { Channel.reset with sus := 20000, gain := 10000, phase := .decay, keycnt := 0 } =
      [(20000, .sr, 1)] ∧
    envelopeTrace 2 { Channel.reset with sus := 16384, gain := 16384, keycnt := 2147483646 } =
      [(16384, .sr, 2147483647), (16384, .sr, 2147483647)] := by decide

/-- V-OSC-2, V-OSC-5, V-OSC-8, and a tie rounded away from zero. -/
theorem test_oscillator :
    (let ch := { Channel.reset with bent := 17145896, detune := BitVec.ofInt 32 (-17801256), pos := 2 }
     ch.phaseStep = -4 ∧ ch.advancePhase.pos = 16382) ∧
    { Channel.reset with bent := 822074112, pos := 16000 }.advancePhase.pos = 4276 ∧
    { Channel.reset with detune := 1445068800 }.advancePhase.pos = 8192 ∧
    { Channel.reset with bent := 88200 }.phaseStep = 1 ∧
    { Channel.reset with detune := BitVec.ofInt 32 (-88200) }.phaseStep = -1 := by decide

/-- V-GAIN-1, V-GAIN-3, V-GAIN-4, V-GAIN-11. -/
theorem test_gain_multiplier :
    { Channel.reset with gain := 16384, nvol := 100, svol := 64 }.scale 16384 = 3250 ∧
    { Channel.reset with gain := 32768 }.scale (-32768) = -32768 ∧
    { Channel.reset with gain := 16384 }.scale (-1) = 0 ∧
    { Channel.reset with gain := 24576, nvol := 90, gvol := 110, svol := 100 }.scale (-20000) = -7249 := by decide

/-- V-NOTE. -/
theorem test_note_table :
    [0, 1, 2, 11, 12, 23, 24, 36, 60, 69, 126, 127].map (noteFreq BASE12) =
      [535809, 56767, 601425, 1011473, 1071618, 2022946, 2143237, 4286474, 17145896, 28835840, 775934464, 822074112]
      := by decide

/-- A key-on that a ring consumes sounds in its frame (program P-1's first frame). -/
theorem test_frame_of_keyon :
    let s := stepped (State.reset.withFetchWord 32 0xD01FC03C)
    (s.ch 0).gain = 32768 ∧ (s.ch 0).pos = 97 ∧ s.tick = 1 ∧ (s.ch 0).head = 1 := by decide +kernel

/-! ### Witnesses: for every statement with hypotheses, values that meet them, clause by clause at the boundaries -/

/-- DecodeEncodeAgree, EncodeOfDecodedIsTheWord, GcmdRunsTheWordWritten, CommandWordsUpdateKeyAndPitch: words of every
form decode, and words with `GRSV ≠ 0` or `OP ≥ 8` are met at the boundary. -/
theorem witness_decoding :
    (Instr.param (P := lsg) 0 (2 ^ 32 - 1) true noFields).wellFormed = true ∧
    (∃ e i, decode (P := lsg) e = .ok i) ∧ (∃ v i, decode (P := lsg) (.generator v) = .ok i) ∧
    (0x10 : Word).toNat / 16 % 16 ≠ 0 ∧ 8 ≤ (0x8 : Word).toNat % 16 ∧
    ((0x7 : Word).toNat / 16 % 16 = 0 ∧ (0x7 : Word).toNat % 16 < 8) ∧
    decode (P := lsg) (.command 0 0 0) = .ok (.nop 0 0 false false noFields) ∧
    decode (P := lsg) (.command 0 0 0xD01FC03C) = .ok (.keyon 0 0 note60) ∧
    decode (P := lsg) (.command 0 0 0x80000000) = .ok (.keyoff 0 0 noFields) ∧
    decode (P := lsg) (.command 0 0 0xA0000000) = .ok (.param 0 0 false noFields) :=
  ⟨by decide, ⟨.generator 1, _, rfl⟩, ⟨1, _, rfl⟩, by decide, by decide, by decide, by decide, by decide, by decide,
    by decide⟩

/-- StepPerformsTheDecodedAccess, ResetInputGivesPowerOnValues. -/
theorem witness_pending :
    (∃ (s : State) (op : BusOp) (i : Instr), s.pending = .bus op :: [.reset] ∧ decode (P := lsg) (.bus op) = .ok i) ∧
    (∃ s : State, s.pending = []) ∧ ∃ s : State, s.pending = .reset :: [] :=
  ⟨⟨{ State.reset with pending := [.bus (.read .word 4), .reset] }, _, _, rfl, rfl⟩, ⟨State.reset, rfl⟩,
    ⟨{ State.reset with pending := [.reset] }, rfl⟩⟩

/-- A build of two channels, every other parameter that of the LSG core. -/
def twoChannels : Params := { lsg with numCh := 2, numCh_range := by decide }

/-- The decoder of that build: channel 1 is there, channel 2 is an absent block (10_state.md R60). -/
theorem test_other_build_decodes :
    decode (P := twoChannels) (.bus (.write .word 0x1134 9)) = .ok (.wrChSchcmd ⟨1, by decide⟩ 9) ∧
    decode (P := twoChannels) (.bus (.write .word 0x1234 9)) = .error (.access .absentChannel) := by decide

/-- The machine of that build: a write to channel 1 is accepted, one to channel 2 refused (47_host_ops.md R410). -/
theorem test_other_build_steps :
    (match stepIn { State.atPowerOn twoChannels with status := .full, pending := [.bus (.write .word 0x1130 9)] } with
      | .next t => ((t.ch ⟨1, by decide⟩).schofs, t.status) | .fault _ => (0, .full) | .refused _ => (0, .full)) =
        (9, .ok) ∧
    (match stepIn { State.atPowerOn twoChannels with pending := [.bus (.write .word 0x1230 9)] } with
      | .next t => t.status | .fault _ => .full | .refused _ => .full) = .range := by decide

/-- StepPerformsTheDecodedAccess at that build: with an access that decodes pending, and with none. -/
theorem witness_other_build :
    (∃ (s : State twoChannels) (op : BusOp) (i : Instr twoChannels),
      s.pending = .bus op :: [.reset] ∧ decode (.bus op) = .ok i) ∧
    ∃ s : State twoChannels, s.pending = [] :=
  ⟨⟨{ State.atPowerOn twoChannels with pending := [.bus (.read .word 4), .reset] }, _, _, rfl, rfl⟩,
    ⟨State.atPowerOn twoChannels, rfl⟩⟩

/-- UnmappedAccessesAreAnswered: a write or a read pending, a byte access, an address off by 2, the first address of an
absent block and the last one below it. -/
theorem witness_unmapped :
    (∀ op : BusOp, ∃ s : State, s.pending = .bus op :: []) ∧
    Width.byte ≠ .word ∧ (2 : BitVec 13).toNat % 4 ≠ 0 ∧
    ((0x1D00 : BitVec 13).toNat % 4 = 0 ∧ 0x1000 + NUM_CH * 0x100 ≤ (0x1D00 : BitVec 13).toNat) ∧
    ((0x1CFC : BitVec 13).toNat % 4 = 0 ∧ (0x1CFC : BitVec 13).toNat < 0x1000 + NUM_CH * 0x100) :=
  ⟨fun op => ⟨{ State.reset with pending := [.bus op] }, rfl⟩, by decide, by decide, by decide, by decide⟩

/-- The addresses of `witness_unmapped` name no register. -/
theorem witness_unmapped_registers :
    ∀ a ∈ [(0x00C : BitVec 13), 0xFFC, 0x1070, 0x1CFC, 0x1D00, 0x1FFC],
      (∀ r : GReg, r.addr ≠ a) ∧ ∀ (c : Chan) (r : CReg), r.addr c ≠ a := by
  have key : ∀ a ∈ [(0x00C : BitVec 13), 0xFFC, 0x1070, 0x1CFC, 0x1D00, 0x1FFC],
      (match decodeAddr (P := lsg) a with | .ok _ => true | .error _ => false) = false := by
    intro a ha
    fin_cases ha <;> rfl
  intro a ha
  have no : ∀ r : Reg, r.addr ≠ a := by
    rintro r rfl
    have := key _ ha
    rw [decodeAddr_addr] at this
    exact absurd this Bool.noConfusion
  exact ⟨fun r => no (.global r), fun c r => no (.channel c r)⟩

/-- ConsumptionTickAppliesEachHeadWord: ticks off and on the fetch interval, and a head word that decodes. -/
theorem witness_consumption_tick :
    ({ State.reset with tick := 63 } : State).tick.toNat % FI ≠ 0 ∧
    ({ State.reset with tick := 64 } : State).tick.toNat % FI = 0 ∧
    decode (P := lsg) (.command 12 7 (State.reset.ch 12).consume.1) = .ok (.nop 12 7 false false noFields) := by decide

/-- A state that meets the invariant with a full-length log entry list, an observer record and a written byte. -/
def invariantState : State :=
  { withCh { loopedChannel with gain := 32768, obs := true } with
    out := [(1, 0xAA), (0xFFFFF, 0x55)]
    trace := [⟨0, 0x80000000, 3⟩]
    pending := [.bus (.write .word 0x1084 0)] }

/-- StepKeepsTheBlockInvariant, StoresAreWrittenOnlyByTheirOperations. -/
theorem witness_invariant : invariantState.Inv ∧ ∃ t, step invariantState = .next t := by
  refine ⟨⟨?_, by decide, by decide, by decide⟩, ⟨_, rfl⟩⟩
  have h0 : invariantState.ch 0 = { loopedChannel with gain := 32768, obs := true } := ch_setCh_same _ _ _
  have hd : ∀ c : Chan, c ≠ 0 → invariantState.ch c = Channel.reset := by
    intro c hc
    refine (ch_setCh_ne State.reset hc _).trans ?_
    simp [State.ch, State.reset, State.atPowerOn]
  intro c
  by_cases hc : c = 0
  · rw [hc, h0]
    constructor
    case ring_words => intro j; simp [loopedChannel, Channel.reset, cmdRsv]
    all_goals decide
  · rw [hd c hc]
    constructor
    case ring_words => intro j; simp [Channel.reset, cmdRsv]
    all_goals decide

/-- ControlWritePausesAndInitializes, WriteOnlyRegistersReadZero: the W1 bits at 0 and at 1. -/
theorem witness_control_bits :
    (1 : Word).getLsbD 1 = false ∧ (3 : Word).getLsbD 1 = true ∧
    (3 : Word).getLsbD 2 = false ∧ (3 : Word).getLsbD 3 = false := by decide

/-- ReadsHaveNoOtherEffect: a register that is no data port, and two states with the same channel. -/
theorem witness_reads :
    GReg.wtaddr.dataPort = false ∧
    ∃ s u : State, s ≠ u ∧ u.ch 5 = s.ch 5 :=
  ⟨rfl, State.reset, { State.reset with status := .full }, fun h => by
    have : State.reset.status = .full := by rw [h]
    exact absurd this (by decide), rfl⟩

/-- RefusedWritesChangeOnlyTheStatus, ObserverStreamHasNoEffect, ChannelOperationsStayInTheirChannel: writes, reads and
commands that answer a next state, and two states that differ in the observer stream. -/
theorem witness_next_states :
    (∃ t, exec (Reg.wr 7 (.channel 3 .gensel)) State.reset = .next t) ∧
    (∃ t, exec (CReg.rd 3 .gensel) State.reset = .next t) ∧
    (∃ k w i t, decode (P := lsg) (.command 3 k w) = .ok i ∧ exec i State.reset = .next t) ∧
    ∃ u t : State, State.reset.SameButTrace u ∧ u.trace ≠ [] ∧ exec (.wrTick 7) State.reset = .next t :=
  ⟨⟨_, rfl⟩, ⟨_, rfl⟩, ⟨7, 0x80000000, _, _, rfl, rfl⟩,
    ⟨{ State.reset with trace := [⟨0, 0x80000000, 0⟩] }, _, rfl, by decide, rfl⟩⟩

/-- The premises of StoresAreWrittenOnlyByTheirOperations: an operation that writes each store. -/
theorem witness_stores :
    (after (.wrTick 7) State.reset).tick ≠ State.reset.tick ∧
    (after (.wrRgo 0) (renderOf 0x100 1 State.reset)).out ≠ State.reset.out ∧
    (after (.wrCtdata 7) State.reset).ct[0] ≠ State.reset.ct[0] ∧
    (after (.wrHcdata 7) State.reset).hc[0] ≠ State.reset.hc[0] ∧
    (after (.wrTapdata 7) State.reset).tap[0] ≠ State.reset.tap[0] ∧
    ((after (.wrChAppcmd 0 0) State.reset).ch 0).log ≠ (State.reset.ch 0).log ∧
    ((after (.wrChSchcmd 0 0x80000000) State.reset).ch 0).ring ≠ (State.reset.ch 0).ring ∧
    ((after (.wrRgo 0) (renderOf 0x100 1 State.reset)).ch 0).head ≠ (State.reset.ch 0).head ∧
    (after (.keyoff 0 0 noFields) (withCh { Channel.reset with obs := true })).trace ≠ State.reset.trace ∧
    ((after (.wrWtdata 7) State.reset).wt[0])[0] ≠ (State.reset.wt[0])[0] := by decide +kernel

/-- The range checks of the register statements at both sides of every bound: ADSR and SUSTAIN, the volumes, GENSEL, the
peek indices, the loop indices. -/
theorem witness_ranges :
    ((0xFFFF : Word).toNat ≤ 0xFFFF ∧ 0xFFFF < (0x10000 : Word).toNat) ∧
    ((0x8000 : Word).toNat ≤ GAIN_MAX ∧ GAIN_MAX < (0x8001 : Word).toNat) ∧
    ((127 : Word).toNat ≤ 127 ∧ 127 < (128 : Word).toNat) ∧
    ((15 : Word).toNat = (15 : Fin NUM_SLOTS).val ∧ (255 : Word).toNat = NOISE_SEL) ∧
    (NUM_SLOTS ≤ (16 : Word).toNat ∧ (16 : Word).toNat ≠ NOISE_SEL) ∧
    (NUM_SLOTS ≤ (256 : Word).toNat ∧ (256 : Word).toNat ≠ NOISE_SEL) ∧
    ((63 : Word).toNat = (63 : Fin RING_CAP).val ∧ RING_CAP ≤ (64 : Word).toNat) ∧
    ((4095 : Word).toNat = (4095 : Fin LOG_CAP).val ∧ LOG_CAP ≤ (4096 : Word).toNat) := by decide

/-- The ports' ranges at both sides of every bound. -/
theorem witness_port_ranges :
    ((0x000F3FFF : Word).toNat / 2 ^ 24 = 0 ∧ (0x000F3FFF : Word).toNat / 2 ^ 16 % 2 ^ 8 < NUM_SLOTS ∧
      (0x000F3FFF : Word).toNat % 2 ^ 16 < WT_LEN) ∧
    (0x01000000 : Word).toNat / 2 ^ 24 ≠ 0 ∧ NUM_SLOTS ≤ (0x00100000 : Word).toNat / 2 ^ 16 % 2 ^ 8 ∧
    WT_LEN ≤ (0x00004000 : Word).toNat % 2 ^ 16 ∧
    ((31 : Word).toNat = (31 : Fin NUM_HARM).val ∧ NUM_HARM ≤ (32 : Word).toNat) ∧
    ((127 : Word).toNat = (127 : Fin NOTE_COUNT).val ∧ NOTE_COUNT ≤ (128 : Word).toNat) ∧
    ((3 : Word).toNat = (3 : Fin NUM_TAPS).val ∧ NUM_TAPS ≤ (4 : Word).toNat) := by decide

/-- PeekRegistersShowRingAndLog: an index on an entry, and the first index past the log. -/
theorem witness_log_peek :
    (let ch := ((withCh { loopedChannel with logidx := 1 }).ch 0)
     ch.log[ch.logidx.val]? = some ⟨300, 0x80000000⟩) ∧
    (let ch := ((withCh { loopedChannel with logidx := 2 }).ch 0)
     ch.log.length ≤ ch.logidx.val) := by decide

/-- AppendChecksOrderAndCapacity: a reserved bit, a tick one before the last entry's, the last entry's own tick, a log
with one entry left and a full one. -/
theorem witness_append :
    (0x00200000 : Word).toNat / 2 ^ 21 % 64 ≠ 0 ∧ (0xC0000000 : Word).toNat / 2 ^ 21 % 64 = 0 ∧
    (let ch := ((withCh { loopedChannel with apptick := 299 }).ch 0)
     ch.log.getLast? = some ⟨300, 0x80000000⟩ ∧ ch.apptick.toNat < (300 : Word).toNat) ∧
    (let ch := ((withCh { loopedChannel with apptick := 300 }).ch 0)
     ∀ last, ch.log.getLast? = some last → last.tick.toNat ≤ ch.apptick.toNat) ∧
    (∀ n, n = 4095 ∨ n = LOG_CAP →
      ((withCh { Channel.reset with log := List.replicate n ⟨0, 0⟩ }).ch 0).log.length = n ∧
      ∀ last, ((withCh { Channel.reset with log := List.replicate n ⟨0, 0⟩ }).ch 0).log.getLast? = some last →
        last.tick.toNat ≤ ((withCh { Channel.reset with log := List.replicate n ⟨0, 0⟩ }).ch 0).apptick.toNat) := by
  refine ⟨by decide, by decide, by decide, ?_, fun n _ => ?_⟩
  · intro ch last h
    have : some (⟨300, 0x80000000⟩ : LogEntry) = some last := h
    cases this
    decide
  · have e : (withCh { Channel.reset with log := List.replicate n ⟨0, 0⟩ }).ch 0 =
        { Channel.reset with log := List.replicate n ⟨0, 0⟩ } := ch_setCh_same _ _ _
    rw [e]
    refine ⟨List.length_replicate, fun last h => ?_⟩
    have := List.eq_of_mem_replicate (List.mem_of_getLast? h)
    subst this
    exact Nat.zero_le _

/-- ScheduleImmediateWritesTheRing, ScheduledWordIsConsumedInItsTurn: the last offset of the ring and the first past
it. -/
theorem witness_schedule :
    ((withCh { Channel.reset with schofs := 63 }).ch 0).schofs.toNat < RING_CAP ∧
    RING_CAP ≤ ((withCh { Channel.reset with schofs := 64 }).ch 0).schofs.toNat ∧ 63 < RING_CAP := by decide

/-- The generator statements: the last slot, the largest amplitude, both ends of the counts, and one past each. -/
theorem witness_generators :
    (15 : BitVec 8).toNat < NUM_SLOTS ∧ NUM_SLOTS ≤ (16 : BitVec 8).toNat ∧ (255 : BitVec 8).toNat = NOISE_SEL ∧
    ({ State.reset with garg1 := 32767 } : State).garg1.toNat ≤ 32767 ∧
    32767 < ({ State.reset with garg1 := 32768 } : State).garg1.toNat ∧
    (1 ≤ ({ State.reset with garg0 := 1 } : State).garg0.toNat ∧
      ({ State.reset with garg0 := 32 } : State).garg0.toNat ≤ NUM_HARM ∧
      ({ State.reset with garg0 := 16384 } : State).garg0.toNat ≤ WT_LEN) ∧
    State.reset.garg0.toNat = 0 ∧ NUM_HARM < ({ State.reset with garg0 := 33 } : State).garg0.toNat ∧
    WT_LEN < ({ State.reset with garg0 := 16385 } : State).garg0.toNat ∧
    ¬ ((17 : BitVec 8).toNat < NUM_SLOTS ∨ (17 : BitVec 8).toNat = NOISE_SEL) := by decide

/-- BendLiesBetweenBaseAndTarget: a bend of full magnitude and one of none. -/
theorem witness_bend :
    ({ noFields with pbp := true, pbmag := 63 } : CmdFields).pbp = true ∧
    ({ noFields with pbp := true, pbmag := 63 } : CmdFields).pbmag.toNat = 63 ∧
    ({ noFields with pbp := true } : CmdFields).pbmag.toNat = 0 := by decide

/-- AttackAndDecaySteps: key off, the attack at and below full scale, the decay. -/
theorem witness_attack_decay :
    (let ch := { Channel.reset with phase := .attack }
     ch.phase ≠ .sr ∧ ch.keycnt.toInt = -1) ∧
    (let ch := { Channel.reset with phase := .attack, keycnt := 0 }
     ch.keycnt.toInt ≠ -1 ∧ GAIN_MAX ≤ ch.gain.toNat + ch.atk.toNat) ∧
    (let ch := { Channel.reset with phase := .attack, keycnt := 0, atk := 32767 }
     ch.keycnt.toInt ≠ -1 ∧ ch.gain.toNat + ch.atk.toNat < GAIN_MAX) ∧
    (let ch := { Channel.reset with phase := .decay, keycnt := 0 }
     ch.phase = .decay ∧ ch.keycnt.toInt ≠ -1) := by decide

/-- SustainAndReleaseSteps, EnvelopeBoundsGainAndPhaseChanges, ReleaseFallsToZero: the held fade just above and just
below zero, the key off, and a release that ends. -/
theorem witness_sustain_release :
    (let ch := { Channel.reset with keycnt := 8, fade := 4096 }
     ch.phase = .sr ∧ 0 ≤ ch.keycnt.toInt ∧ (0 : Int) ≤ ch.sus.toNat - ch.keycnt.toInt * ch.fade.toNat) ∧
    (let ch := { Channel.reset with keycnt := 9, fade := 4096 }
     0 ≤ ch.keycnt.toInt ∧ (ch.sus.toNat : Int) - ch.keycnt.toInt * ch.fade.toNat < 0) ∧
    (let ch := { Channel.reset with gain := 20000, dec := 1 }
     ch.phase = .sr ∧ ch.keycnt.toInt = -1 ∧ ch.gain.toNat ≤ GAIN_MAX ∧ ch.sus.toNat ≤ GAIN_MAX ∧ 0 < ch.rel.toNat ∧
       0 < ch.dec.toNat ∧ ch.gain.toNat ≤ ch.sus.toNat) := by decide

/-- FadeRampsToTheTarget: below, above and at the target. -/
theorem witness_fade :
    { Channel.reset with svol := 126 }.svol.toNat < Channel.reset.stgt.toNat ∧
    { Channel.reset with stgt := 0 }.stgt.toNat < Channel.reset.svol.toNat ∧
    Channel.reset.svol.toNat = Channel.reset.stgt.toNat := by decide

/-- ContributionsAndMixStayInRange: full scale, and silence. -/
theorem witness_contribution :
    (let ch := { Channel.reset with gain := 32768 }
     ch.gain.toNat = GAIN_MAX ∧ ch.nvol.toNat = 127 ∧ ch.gvol.toNat = 127 ∧ ch.svol.toNat = 127) ∧
    Channel.reset.gain.toNat = 0 ∧ ∀ c : Chan, (State.reset.ch c).gain.toNat ≤ GAIN_MAX := by decide

/-- RingConsumesAndTruncates: an offset with a later one, and the last. -/
theorem witness_ring_offsets : 62 + 1 < RING_CAP ∧ 63 < RING_CAP := by decide

/-- FillWalksTheLogToTheWindowEnd: an unbound log and a bound one. -/
theorem witness_fill : Channel.reset.bound = false ∧ loopedChannel.bound = true := by decide

/-- LoopRegionRepeatsWithItsSpan: the last entry of the region in its first play and the first one in its second
(V-LOG-1), and the last cursor value with a play after it. -/
theorem witness_loop :
    loopedChannel.loopEn = true ∧ loopedChannel.loopFirst.val ≤ loopedChannel.loopLast.val ∧
    loopedChannel.loopStart.toNat < loopedChannel.loopEnd.toNat ∧ loopedChannel.loopFirst.val ≤ 1 ∧
    1 ≤ loopedChannel.loopLast.val ∧ loopedChannel.effIndex 1 = 1 ∧ loopedChannel.effShift 1 = 0 ∧
    loopedChannel.effIndex 2 = 0 ∧ loopedChannel.effShift 2 = 400 ∧
    4294967292 + (loopedChannel.loopLast.val - loopedChannel.loopFirst.val + 1) < 2 ^ 32 - 1 := by decide

/-- The fill at tick 400 places what the fill at tick 0 places, one play of the region later (V-LOG-1). -/
theorem witness_loop_placed :
    ((Channel.fillOnce 400 { loopedChannel with cursor := 2 }).map fun x => (x.slotAt 1, x.cursor)) =
      some (0xD019003C, 3) ∧
    ((Channel.fillOnce 0 { loopedChannel with cursor := 0 }).map fun x => (x.slotAt 1, x.cursor)) =
      some (0xD019003C, 1) := by decide +kernel

/-- RenderChecksInOrder: no frames, no base, a short stride, a range one byte too long. -/
theorem witness_render_refusals :
    State.reset.rcount.toNat = 0 ∧
    ((renderOf 0 1 State.reset).rcount.toNat ≠ 0 ∧ (renderOf 0 1 State.reset).rbase.toNat = 0) ∧
    (let s := { renderOf 0x100 1 State.reset with rstride := 3, rstereo := true }
     s.rcount.toNat ≠ 0 ∧ s.rbase.toNat ≠ 0 ∧ s.rstride.toNat < frameSize s) ∧
    (let s := renderOf 0xFFFFF 1 State.reset
     s.rcount.toNat ≠ 0 ∧ s.rbase.toNat ≠ 0 ∧ frameSize s ≤ s.rstride.toNat ∧
       OUT_BYTES < s.rbase.toNat + (s.rcount.toNat - 1) * s.rstride.toNat + frameSize s) := by decide

/-- The statements about an accepted render, paused and running: a render that just fits (V-REN-6), with a byte of no
frame and, for the split, two parts. -/
theorem witness_render_accepted :
    (renderOf 0xFFFFE 1 State.reset).renderAccepted ∧
    (renderOf 0xFFFFA 3 State.reset).renderAccepted ∧ (renderOf 0xFFFFA 3 State.reset).pause = false ∧
    ({ renderOf 0xFFFFA 3 State.reset with pause := true } : State).renderAccepted ∧
    ((renderOf 0xFFFFA 3 State.reset).rcount.toNat = 1 + 2 ∧
      ∀ c : Chan, ((renderOf 0xFFFFA 3 State.reset).ch c).bound = false) ∧
    ({ renderOf 0xFFFFA 3 State.reset with rstereo := true, rstride := 4, rcount := 1 } : State).rstereo = true ∧
    ¬ InFrames (renderOf 0xFFFFA 3 State.reset) 3 0xFFFF9 := by
  unfold State.renderAccepted InFrames
  refine ⟨by decide, by decide, by decide, by decide, by decide, by decide, ?_⟩
  rintro ⟨i, -, h, -⟩
  have : frameAddr (renderOf 0xFFFFA 3 State.reset) i = 0xFFFFA + i * 2 := rfl
  omega

/-- RenderCountsFramesInHeadAndNoise: a noise channel and a wavetable channel. -/
theorem witness_noise_channel :
    ((withCh { Channel.reset with gensel := .noise }).ch 0).gensel = .noise ∧
    ((withCh { Channel.reset with gensel := .noise }).ch 1).gensel ≠ .noise := by decide

end Sys2Proof.Tests
end

section
/-!
SUPPORT. What an instruction of each kind (`Instr.kinds`) can do, said once: a register write either reports a code and
changes nothing else, or makes the change its register allows and is done; a read returns a value and may advance a
pointer; a command word is applied to its channel. Proofs about all instructions go through these lemmas.
-/

namespace Sys2Proof.Machine

open Config

/-! ### States that differ in the observer stream alone (60_exceptions.md R436) -/

/-- `s` with the observer stream `l`. -/
def State.withTrace (l : List TraceRec) (s : State) : State := { s with trace := l }

/-- An answer with the observer stream of its next state replaced. -/
def retrace (l : List TraceRec) : Result → Result
  | .next t => .next (t.withTrace l)
  | .fault r => .fault r
  | .refused r => .refused r

theorem sameButTrace_withTrace (l : List TraceRec) (s : State) : s.SameButTrace (s.withTrace l) := rfl

theorem eq_withTrace {s u : State} (h : s.SameButTrace u) : u = s.withTrace u.trace := h

/-! ### Operations that check, then store (47_host_ops.md R400) -/

/-- The end of an operation that checks first: `done` on the state it accepts, or `fail`. -/
def State.settle (s : State) : Except Status State → State
  | .ok x => done x
  | .error k => fail k s

/-- The operation `m` answers every state, with a code alone or with a state `x` that `Accepts s x`, and decides
without looking at the observer stream. -/
def Settles (m : State → Result) (Accepts : State → State → Prop) : Prop :=
  ∃ g : State → Except Status State,
    (∀ s, m s = .next (s.settle (g s))) ∧ (∀ s x, g s = .ok x → Accepts s x) ∧
    ∀ l s, g (s.withTrace l) = (g s).map (State.withTrace l)

namespace Settles

variable {m : State → Result} {A B : State → State → Prop}

/-- Everything a settling operation can answer. -/
theorem next_cases (h : Settles m A) {s t : State} (ht : m s = .next t) :
    (∃ x, A s x ∧ t = done x) ∨ ∃ k, t = fail k s := by
  obtain ⟨g, hm, hA, -⟩ := h
  rw [hm, Host.Outcome.next.injEq] at ht
  subst ht
  cases hg : g s with
  | ok x => exact .inl ⟨x, hA s x hg, rfl⟩
  | error k => exact .inr ⟨k, rfl⟩

/-- A settling operation sets OK or changes the status alone (47_host_ops.md R400). -/
theorem ok_or_status_alone (h : Settles m A) {s t : State} (ht : m s = .next t) :
    t.status = .ok ∨ t = { s with status := t.status } := by
  obtain ⟨x, -, rfl⟩ | ⟨k, rfl⟩ := h.next_cases ht
  · exact .inl rfl
  · exact .inr rfl

theorem retrace_eq (h : Settles m A) (l : List TraceRec) (s : State) : m (s.withTrace l) = retrace l (m s) := by
  obtain ⟨g, hm, -, hb⟩ := h
  rw [hm, hm, hb]
  cases g s <;> rfl

theorem mono (h : Settles m A) (hAB : ∀ s x, A s x → B s x) : Settles m B := by
  obtain ⟨g, hm, hA, hb⟩ := h
  exact ⟨g, hm, fun s x hx => hAB s x (hA s x hx), hb⟩

theorem reject (k : Status) : Settles (Machine.reject k) A :=
  ⟨fun _ => .error k, fun _ => rfl, by rintro s x ⟨⟩, fun _ _ => rfl⟩

theorem complete {f : State → State} (hA : ∀ s, A s (f s))
    (hb : ∀ l s, f (s.withTrace l) = (f s).withTrace l) : Settles (fun s => Machine.complete (f s)) A :=
  ⟨fun s => .ok (f s), fun _ => rfl, by rintro s _ ⟨⟩; exact hA s, fun l s => congrArg Except.ok (hb l s)⟩

theorem storeRanged {α : Type} {o : Option α} {f : α → State → State} (hA : ∀ a s, o = some a → A s (f a s))
    (hb : ∀ a l s, f a (s.withTrace l) = (f a s).withTrace l) : Settles (Machine.storeRanged o f) A := by
  cases o with
  | none => exact reject .range
  | some a => exact complete (fun s => hA a s rfl) (hb a)

/-- An operation behind one more check. -/
theorem check {p : State → Prop} [DecidablePred p] (k : Status) (h : Settles m A)
    (hb : ∀ l s, p (s.withTrace l) ↔ p s) :
    Settles (fun s => if p s then Machine.reject k s else m s) (fun s x => ¬ p s ∧ A s x) := by
  obtain ⟨g, hm, hA, hg⟩ := h
  refine ⟨fun s => if p s then .error k else g s, fun s => ?_, fun s x hx => ?_, fun l s => ?_⟩
  · by_cases hp : p s
    · simp only [hp, if_true]; rfl
    · simp only [hp, if_false, hm]
  · by_cases hp : p s
    · simp [hp] at hx
    · exact ⟨hp, hA s x (by simpa [hp] using hx)⟩
  · by_cases hp : p s
    · simp only [hb, hp, if_true]; rfl
    · simp only [hb, hp, if_false, hg]

end Settles

/-! ### Channel register writes -/

/-- Channel `x` is what an accepted write of `v` to register `r` makes of channel `ch`: a configuration register sets
fields no invariant and no other rule is about; the rest are named one by one (47_host_ops.md R386 to R399). -/
inductive Channel.Accepts (v : Word) (ch : Channel) : CReg → Channel → Prop
  | setting (r : CReg) (x : Channel)
      (h : x = { ch with
        detune := x.detune, custom := x.custom, atk := x.atk, dec := x.dec, rel := x.rel, fade := x.fade,
        gvol := x.gvol, svol := x.svol, stgt := x.stgt, gensel := x.gensel, obs := x.obs,
        loopFirst := x.loopFirst, loopLast := x.loopLast, loopStart := x.loopStart, loopEnd := x.loopEnd,
        schofs := x.schofs, ringidx := x.ringidx, apptick := x.apptick, logidx := x.logidx }) : Accepts v ch r x
  | level (l : BitVec 16) (h : l.toNat ≤ GAIN_MAX) : Accepts v ch .sustain { ch with sus := l }
  | noteoff : Accepts v ch .noteoff ch.forceNoteOff
  | schedule (k : Nat) (h : cmdRsv v = 0) : Accepts v ch .schcmd (ch.scheduleAndTruncate k v)
  | control : Accepts v ch .logctrl (ch.logControl v)
  | append (hw : cmdRsv v = 0) (ho : ch.outOfOrder ch.apptick = false) (hn : ch.log.length ≠ LOG_CAP) :
      Accepts v ch .appcmd { ch with log := ch.log ++ [⟨ch.apptick, v⟩] }

/-- State `x` is `s` with channel `c` as an accepted write of `v` to its register `r` makes it. -/
def ChannelAccepts (c : Chan) (v : Word) (r : CReg) (s x : State) : Prop :=
  ∃ y, Channel.Accepts v (s.ch c) r y ∧ x = s.setCh c y

/-- A channel store of a value computed from the channel itself. -/
theorem settles_chStoreFrom (c : Chan) (f : Channel → Channel → Channel) :
    Settles (fun s => chStore c (f (s.ch c)) s) fun s x => x = s.setCh c (f (s.ch c) (s.ch c)) :=
  .complete (fun _ => rfl) fun _ _ => rfl

theorem settles_chStore {c : Chan} {v : Word} {r : CReg} {f : Channel → Channel}
    (h : ∀ ch, Channel.Accepts v ch r (f ch)) : Settles (chStore c f) (ChannelAccepts c v r) :=
  (settles_chStoreFrom c fun _ => f).mono fun _ _ hx => ⟨_, h _, hx⟩

theorem settles_chStoreRanged {α : Type} {c : Chan} {v : Word} {r : CReg} {o : Option α} {f : α → Channel → Channel}
    (h : ∀ a ch, o = some a → Channel.Accepts v ch r (f a ch)) :
    Settles (chStoreRanged c o f) (ChannelAccepts c v r) :=
  .storeRanged (fun a s ha => ⟨f a (s.ch c), h a _ ha, rfl⟩) fun _ _ _ => rfl

theorem levelOf_bound {v : Word} {l : BitVec 16} (h : levelOf lsg v = some l) : l.toNat ≤ GAIN_MAX := by
  by_cases hv : v.toNat ≤ GAIN_MAX
  · rw [levelOf_le hv, Option.some.injEq] at h
    subst h
    exact (Nat.mod_le _ _).trans hv
  · rw [levelOf_gt (by omega)] at h
    cases h

theorem settles_schedule (c : Chan) (v : Word) :
    Settles (execWrChSchcmd c v) (ChannelAccepts c v .schcmd) := by
  unfold execWrChSchcmd
  by_cases hw : cmdRsv v = 0
  · simp only [hw, ne_eq, not_true, if_false]
    refine (Settles.check .full (settles_chStoreFrom c fun ch => Channel.scheduleAndTruncate ch.schofs.toNat v)
      fun _ _ => Iff.rfl).mono fun s x ⟨_, hx⟩ => ?_
    exact ⟨_, .schedule _ hw, hx⟩
  · simp only [hw, ne_eq, not_false_eq_true, if_true]
    exact .reject .malformed

theorem settles_append (c : Chan) (v : Word) :
    Settles (execWrChAppcmd c v) (ChannelAccepts c v .appcmd) := by
  unfold execWrChAppcmd
  by_cases hw : cmdRsv v = 0
  · simp only [hw, ne_eq, not_true, if_false]
    refine (Settles.check .malformed (Settles.check .full
      (settles_chStoreFrom c fun ch y => { y with log := y.log ++ [⟨ch.apptick, v⟩] })
      fun _ _ => Iff.rfl) fun _ _ => Iff.rfl).mono fun s x ⟨ho, hn, hx⟩ => ?_
    exact ⟨_, .append hw (Bool.eq_false_iff.2 ho) hn, hx⟩
  · simp only [hw, ne_eq, not_false_eq_true, if_true]
    exact .reject .malformed

/-- Everything a write of a channel register can do. -/
theorem settles_wr_channel (c : Chan) (v : Word) (r : CReg) :
    Settles (exec (r.wr c v)) (ChannelAccepts c v r) := by
  cases r with
  | ringdata | logcount | logcursor | logtick | logcmd | envphase | gain | keycnt | notevol | basefreq | bentfreq
  | lastnote | oscpos | lfsr | ringhead => exact .reject .generic
  | detune | chctrl | schofs | apptick | loopstart | loopend =>
    exact settles_chStore fun _ => .setting _ _ rfl
  | gensel | attack | decay | release | faderate | volume | sysvol | fadetgt | ringidx | loopfirst | looplast
  | logidx => exact settles_chStoreRanged fun _ _ _ => .setting _ _ rfl
  | sustain => exact settles_chStoreRanged fun l _ h => .level l (levelOf_bound h)
  | noteoff => exact settles_chStore fun _ => .noteoff
  | logctrl => exact settles_chStore fun _ => .control
  | schcmd => exact settles_schedule c v
  | appcmd => exact settles_append c v

/-- CLEAR empties the log; LOGCTRL writes the log, the cursor and the two mode bits (47_host_ops.md R395). -/
theorem logControl_eq (v : Word) (ch : Channel) :
    ch.logControl v = { ch with
      log := if v.getLsbD 2 then [] else ch.log, cursor := (ch.logControl v).cursor,
      bound := v.getLsbD 0, loopEn := v.getLsbD 1 } := by
  unfold Channel.logControl
  cases v.getLsbD 2 <;> cases v.getLsbD 3 <;> rfl

/-! ### Generator operations -/

/-- State `x` is `s` with other wavetables. -/
def WavetablesFilled (s x : State) : Prop := x = { s with wt := x.wt }

theorem settles_generate {dst : BitVec 8} {ok : State → Bool} {wave : State → Fin WT_LEN → Sample}
    (hok : ∀ l s, ok (s.withTrace l) = ok s) (hwave : ∀ l s, wave (s.withTrace l) = wave s) :
    Settles (fun s => generate dst (ok s) (wave s) s) WavetablesFilled := by
  by_cases hd : dst.toNat < NUM_SLOTS
  · have store : Settles (fun s => complete { s with wt := s.wt.set dst.toNat (Vector.ofFn (wave s)) hd })
        WavetablesFilled := .complete (fun _ => rfl) fun l s => by rw [hwave]; rfl
    have e : (fun s => generate dst (ok s) (wave s) s) = fun s => if ok s = false then reject .range s else
        complete { s with wt := s.wt.set dst.toNat (Vector.ofFn (wave s)) hd } := by
      funext s
      cases hs : ok s
      · exact generate_bad_args dst (wave s) s
      · exact generate_ok hd (wave s) s
    exact e ▸ (Settles.check .range store fun l s => by rw [hok]).mono fun _ _ h => h.2
  · exact (funext fun s => generate_bad_slot (not_lt.1 hd) (ok s) (wave s) s) ▸ .reject .range

theorem settles_mix (dst srcA srcB : BitVec 8) : Settles (execGenMix dst srcA srcB) WavetablesFilled := by
  unfold execGenMix
  cases GenSel.ofNat lsg srcA.toNat with
  | none => exact .reject .range
  | some a =>
    cases GenSel.ofNat lsg srcB.toNat with
    | none => exact .reject .range
    | some b => exact settles_generate (fun _ _ => rfl) fun _ _ => rfl

/-- Everything a generator operation can do. -/
theorem settles_generator {op : Nat} {dst srcA srcB : BitVec 8} {i : Instr}
    (h : genInstr dst srcA srcB op = some i) : Settles (exec i) WavetablesFilled := by
  unfold genInstr at h
  split at h <;> simp only [Option.some.injEq, reduceCtorEq] at h <;> subst h
  case h_7 => exact settles_mix dst srcA srcB
  all_goals exact settles_generate (fun _ _ => rfl) fun _ _ => rfl

/-- A decoded generator word is one of the eight operations. -/
theorem genInstr_of_decode {v : Word} {i : Instr} (h : decode (.generator v) = .ok i) :
    ∃ (op : Nat) (dst srcA srcB : BitVec 8), genInstr dst srcA srcB op = some i := by
  rw [decode_generator] at h
  split at h
  · cases h
  · split at h
    · next j hj => cases h; exact ⟨_, _, _, _, hj⟩
    · cases h

theorem settles_runGenerator (v : Word) : Settles (runGenerator v) WavetablesFilled := by
  by_cases h : ∃ i : Instr, decode (.generator v) = .ok i
  · obtain ⟨i, hi⟩ := h
    obtain ⟨op, dst, srcA, srcB, hg⟩ := genInstr_of_decode hi
    exact (funext (runGenerator_of_decode hi)) ▸ settles_generator hg
  · exact (funext (runGenerator_malformed (not_exists.1 h))) ▸ .reject .malformed

/-! ### Global register writes -/

/-- State `x` is what an accepted write of `v` to the global register `r`, RGO apart, makes of `s`: most registers set
control, render and pointer fields; the rest are named one by one (47_host_ops.md R370 to R385). -/
inductive State.Accepts (v : Word) (s : State) : GReg → State → Prop
  | setting (r : GReg) (x : State)
      (h : x = { s with
        pause := x.pause, rbase := x.rbase, rcount := x.rcount, rstride := x.rstride, rstereo := x.rstereo,
        rbig := x.rbig, garg0 := x.garg0, garg1 := x.garg1, wtSlot := x.wtSlot, wtIdx := x.wtIdx, hcIdx := x.hcIdx,
        ctIdx := x.ctIdx, tapIdx := x.tapIdx }) : Accepts v s r x
  | init (p : Bool) (h : v.getLsbD 1 = true) : Accepts v s .ctrl (initBlock { s with pause := p })
  | tick (n : BitVec TICK_BITS) : Accepts v s .tick { s with tick := n }
  | wavetables (r : GReg) (x : State) (hr : r = .wtdata ∨ r = .gcmd)
      (h : x = { s with wt := x.wt, wtIdx := x.wtIdx }) : Accepts v s r x
  | harmonics (x : State) (h : x = { s with hc := x.hc, hcIdx := x.hcIdx }) : Accepts v s .hcdata x
  | custom (x : State) (h : x = { s with ct := x.ct, ctIdx := x.ctIdx }) : Accepts v s .ctdata x
  | taps (x : State) (h : x = { s with tap := x.tap, tapIdx := x.tapIdx }) : Accepts v s .tapdata x

theorem settles_control (v : Word) : Settles (execWrCtrl v) fun s x => State.Accepts v s .ctrl x := by
  unfold execWrCtrl
  cases h : v.getLsbD 1
  · exact .complete (fun s => .setting .ctrl _ rfl) fun _ _ => rfl
  · exact .complete (fun s => .init _ h) fun _ _ => rfl

/-- Everything a write of a global register, RGO apart, can do. -/
theorem settles_wr_global (v : Word) {r : GReg} (hr : r ≠ .rgo) :
    Settles (exec (r.wr v)) fun s x => State.Accepts v s r x := by
  cases r with
  | rgo => exact absurd rfl hr
  | status => exact .reject .generic
  | ctrl => exact settles_control v
  | tick => exact .complete (fun _ => .tick _) fun _ _ => rfl
  | rbase | rcount | rstride | rfmt | garg0 | garg1 => exact .complete (fun _ => .setting _ _ rfl) fun _ _ => rfl
  | gcmd => exact (settles_runGenerator v).mono fun s x h => .wavetables _ x (.inr rfl) (h.trans (by rw [h]))
  | wtaddr | hcaddr | ctaddr | tapaddr =>
    exact .storeRanged (fun _ _ _ => .setting _ _ rfl) fun _ _ _ => rfl
  | wtdata => exact .complete (fun _ => .wavetables _ _ (.inl rfl) rfl) fun _ _ => rfl
  | hcdata => exact .complete (fun _ => .harmonics _ rfl) fun _ _ => rfl
  | ctdata => exact .complete (fun _ => .custom _ rfl) fun _ _ => rfl
  | tapdata => exact .complete (fun _ => .taps _ rfl) fun _ _ => rfl

/-! ### Reads -/

/-- A read of a channel register returns a value and does nothing else (47_host_ops.md R406). -/
theorem exec_rd_channel (c : Chan) (r : CReg) (s : State) :
    ∃ v, exec (r.rd c) s = .next { s with rdata := v } := by
  cases r <;> exact ⟨_, rfl⟩

/-- A read of a global register returns a value and may advance a data port's pointer (20_memory.md R109). -/
theorem exec_rd_global (r : GReg) (s : State) :
    ∃ v a b d e, exec r.rd s =
      .next { s with rdata := v, wtIdx := a, hcIdx := b, ctIdx := d, tapIdx := e } := by
  cases r <;> exact ⟨_, _, _, _, _, rfl⟩

theorem exec_rd_retrace (r : Reg) (l : List TraceRec) (s : State) :
    exec r.rd (s.withTrace l) = retrace l (exec r.rd s) := by
  cases r with
  | global r => cases r <;> rfl
  | channel c r => cases r <;> rfl

/-! ### Command words -/

/-- A command instruction applies its word (41_command_apply.md R230). -/
theorem exec_command (c : Chan) (k : Nat) (fm : CmdForm) (s : State) :
    exec (fm.instr c k) s = .next (applyWord c k fm.word s) := by
  cases fm <;> simp only [applyWord, formOf_word] <;> rfl

end Sys2Proof.Machine
end

section
/-!
The observer stream has no effect (60_exceptions.md R436): each operation of the block commutes with replacing it.
-/

namespace Sys2Proof.Machine

open Config

/-- On states that differ in the observer stream alone, `m` gives answers that do. -/
def TraceBlind (m : State → Result) : Prop :=
  ∀ l s, ∃ l', m (s.withTrace l) = retrace l' (m s)

theorem Settles.traceBlind {m : State → Result} {A : State → State → Prop} (h : Settles m A) : TraceBlind m :=
  fun l s => ⟨l, h.retrace_eq l s⟩

/-- What a blind operation answers on the second of two states that differ in the observer stream alone. -/
theorem TraceBlind.next {m : State → Result} (h : TraceBlind m) {s u t : State} (hu : s.SameButTrace u)
    (ht : m s = .next t) : ∃ w, m u = .next w ∧ t.SameButTrace w := by
  obtain ⟨l', hl⟩ := h u.trace s
  refine ⟨t.withTrace l', ?_, sameButTrace_withTrace l' t⟩
  rw [eq_withTrace hu, hl, ht]
  rfl

/-! ### The render -/

theorem writeSample_withTrace (a : Nat) (v : Sample) (l : List TraceRec) (s : State) :
    writeSample a v (s.withTrace l) = (writeSample a v s).withTrace l := by
  simp only [writeSample, apply_ite (State.withTrace l)]
  rfl

theorem writeFrame_withTrace (i : Nat) (v : Sample) (l : List TraceRec) (s : State) :
    writeFrame i v (s.withTrace l) = (writeFrame i v s).withTrace l := by
  simp only [writeFrame, writeSample_withTrace, apply_ite (State.withTrace l)]
  rfl

theorem renderFrame_withTrace (i : Nat) (l : List TraceRec) (s : State) :
    renderFrame i (s.withTrace l) = (renderFrame i s).withTrace (l ++ frameRecords i s) := by
  have h : stepAll (consumeAll i (s.withTrace l)) = (stepAll (consumeAll i s)).withTrace (l ++ frameRecords i s) := by
    rw [stepAll_consumeAll, stepAll_consumeAll]
    rfl
  unfold renderFrame
  simp only [h]
  exact congrArg advanceTick (writeFrame_withTrace i _ _ _)

theorem renderFrames_withTrace (n i : Nat) (l : List TraceRec) (s : State) :
    ∃ l', renderFrames n i (s.withTrace l) = (renderFrames n i s).withTrace l' := by
  induction n generalizing i l s with
  | zero => exact ⟨l, rfl⟩
  | succ n ih =>
    simp only [renderFrames_succ, renderFrame_withTrace]
    exact ih (i + 1) _ _

theorem silentFrames_withTrace (n i : Nat) (l : List TraceRec) (s : State) :
    silentFrames n i (s.withTrace l) = (silentFrames n i s).withTrace l := by
  induction n generalizing i s with
  | zero => rfl
  | succ n ih =>
    unfold silentFrames
    rw [writeFrame_withTrace, ih]

section WithTrace

variable (l : List TraceRec) (s : State)

@[simp] theorem withTrace_rcount : (s.withTrace l).rcount = s.rcount := rfl
@[simp] theorem withTrace_rbase : (s.withTrace l).rbase = s.rbase := rfl
@[simp] theorem withTrace_rstride : (s.withTrace l).rstride = s.rstride := rfl
@[simp] theorem withTrace_pause : (s.withTrace l).pause = s.pause := rfl
@[simp] theorem withTrace_pending : (s.withTrace l).pending = s.pending := rfl
@[simp] theorem frameSize_withTrace : frameSize (s.withTrace l) = frameSize s := rfl
@[simp] theorem fillAll_withTrace : fillAll (s.withTrace l) = (fillAll s).withTrace l := rfl

end WithTrace

theorem traceBlind_render : TraceBlind render := by
  intro l s
  obtain ⟨l', hf⟩ := renderFrames_withTrace s.rcount.toNat 0 l (fillAll s)
  unfold render
  simp only [withTrace_rcount, withTrace_rbase, withTrace_rstride, withTrace_pause, frameSize_withTrace,
    fillAll_withTrace, silentFrames_withTrace, hf]
  split
  · exact ⟨l, rfl⟩
  split
  · exact ⟨l, rfl⟩
  split
  · exact ⟨l, rfl⟩
  split
  · exact ⟨l, rfl⟩
  split
  · exact ⟨l, rfl⟩
  · exact ⟨l', rfl⟩

/-! ### Instructions and steps -/

theorem traceBlind_command (c : Chan) (k : Nat) (fm : CmdForm) : TraceBlind (exec (fm.instr c k)) := by
  intro l s
  refine ⟨l ++ (s.ch c).record c k fm.word, ?_⟩
  rw [exec_command, exec_command, applyWord_eq, applyWord_eq]
  rfl

theorem traceBlind_exec (i : Instr) : TraceBlind (exec i) := by
  obtain ⟨c, k, fm, rfl⟩ | ⟨op, dst, srcA, srcB, h⟩ | ⟨r, v, rfl⟩ | ⟨r, rfl⟩ := i.kinds
  · exact traceBlind_command c k fm
  · exact (settles_generator h).traceBlind
  · cases r with
    | channel c r => exact (settles_wr_channel c v r).traceBlind
    | global r =>
      by_cases hr : r = .rgo
      · subst hr; exact traceBlind_render
      · exact (settles_wr_global v hr).traceBlind
  · exact fun l s => ⟨l, exec_rd_retrace r l s⟩

theorem traceBlind_rejectAccess (op : BusOp) (why : AccessReject) : TraceBlind (rejectAccess op why) := by
  intro l s
  cases why <;> cases op <;> exact ⟨l, rfl⟩

theorem traceBlind_performBus (op : BusOp) : TraceBlind (performBus exec op) := by
  unfold performBus
  cases decodeBus (P := lsg) op with
  | ok i => exact traceBlind_exec i
  | error why => exact traceBlind_rejectAccess op why

theorem traceBlind_step : TraceBlind step := by
  intro l s
  unfold step stepBy
  rw [withTrace_pending]
  split
  · exact ⟨l, rfl⟩
  · exact ⟨[], rfl⟩
  · next op rest _ => exact traceBlind_performBus op l { s with pending := rest }

/-- Settles O58: replacing the observer stream commutes with every operation, up to the records it appends. -/
theorem observerStreamHasNoEffect : Obligations.ObserverStreamHasNoEffect := by
  unfold Obligations.ObserverStreamHasNoEffect
  exact ⟨fun i _ _ _ => (traceBlind_exec i).next, fun _ _ _ => traceBlind_step.next⟩

end Sys2Proof.Machine
end

section
/-!
The invariant of the block (10_state.md R44, R53; 30_encoding.md R143; 20_memory.md R103): each operation on a channel
and each operation on the whole state keeps it.
-/

namespace Sys2Proof.Machine

open Config

/-! ### Channel operations -/

/-- The invariant looks at six fields of a channel. -/
theorem Channel.Inv.of_fields {ch x : Channel} (h : ch.Inv) (hg : x.gain = ch.gain := by rfl)
    (hs : x.sus = ch.sus := by rfl) (hn : x.lfsr = ch.lfsr := by rfl) (hk : x.keycnt = ch.keycnt := by rfl)
    (hl : x.log = ch.log := by rfl) (hr : x.ring = ch.ring := by rfl) : x.Inv where
  gain_le := hg ▸ h.gain_le
  sus_le := hs ▸ h.sus_le
  lfsr_ne := hn ▸ h.lfsr_ne
  keycnt_ge := hk ▸ h.keycnt_ge
  log_len := hl ▸ h.log_len
  log_sorted := hl ▸ h.log_sorted
  log_words := hl ▸ h.log_words
  ring_words := hr ▸ h.ring_words

theorem Channel.Inv.with_log {ch : Channel} (h : ch.Inv) {log : List LogEntry} (h1 : log.length ≤ LOG_CAP)
    (h2 : log.Pairwise fun a b => a.tick.toNat ≤ b.tick.toNat) (h3 : ∀ e ∈ log, cmdRsv e.cmd = 0) :
    Channel.Inv { ch with log := log } :=
  { h with log_len := h1, log_sorted := h2, log_words := h3 }

theorem Channel.Inv.with_ring {ch : Channel} (h : ch.Inv) {ring : Vector Word RING_CAP}
    (hr : ∀ j : Fin RING_CAP, cmdRsv ring[j] = 0) : Channel.Inv { ch with ring := ring } :=
  { h with ring_words := hr }

theorem Channel.reset_inv : (Channel.reset lsg).Inv where
  gain_le := by decide
  sus_le := by decide
  lfsr_ne := by decide
  keycnt_ge := by decide
  log_len := by decide
  log_sorted := List.Pairwise.nil
  log_words := nofun
  ring_words j := by simp [Channel.reset, cmdRsv]

theorem Channel.Inv.afterInit {ch : Channel} (h : ch.Inv) : ch.afterInit.Inv :=
  (Channel.reset_inv.with_log h.log_len h.log_sorted h.log_words).of_fields

/-- The last entry of a log in tick order bounds every entry (10_state.md R44). -/
theorem Channel.Inv.log_le_of_inOrder {ch : Channel} (h : ch.Inv) {t : Word} (ho : ch.outOfOrder t = false) :
    ∀ e ∈ ch.log, e.tick.toNat ≤ t.toNat := by
  intro e he
  have hne : ch.log ≠ [] := List.ne_nil_of_mem he
  have hlast : (ch.log.getLast hne).tick.toNat ≤ t.toNat := by
    simpa [Channel.outOfOrder, List.getLast?_eq_some_getLast hne] using ho
  exact (h.log_sorted.rel_getLast_of_rel_getLast_getLast he (le_refl _)).trans hlast

theorem Channel.Inv.append {ch : Channel} (h : ch.Inv) {t w : Word} (hw : cmdRsv w = 0)
    (ho : ch.outOfOrder t = false) (hn : ch.log.length ≠ LOG_CAP) :
    Channel.Inv { ch with log := ch.log ++ [⟨t, w⟩] } := by
  refine h.with_log ?_ ?_ ?_
  · have := h.log_len
    rw [List.length_append]
    simp only [List.length_singleton]
    omega
  · refine List.pairwise_append.2 ⟨h.log_sorted, List.pairwise_singleton _ _, fun a ha b hb => ?_⟩
    rw [List.mem_singleton.1 hb]
    exact h.log_le_of_inOrder ho a ha
  · intro e he
    rcases List.mem_append.1 he with he | he
    · exact h.log_words e he
    · rw [List.mem_singleton.1 he]; exact hw

theorem Channel.Inv.logControl {ch : Channel} (h : ch.Inv) (v : Word) : (ch.logControl v).Inv := by
  rw [logControl_eq]
  split
  · exact (h.with_log (Nat.zero_le _) List.Pairwise.nil nofun).of_fields
  · exact h.of_fields

theorem Channel.Inv.forceNoteOff {ch : Channel} (h : ch.Inv) : ch.forceNoteOff.Inv :=
  { h with gain_le := Nat.zero_le _, keycnt_ge := le_refl (-1) }

theorem cmdRsv_zero : cmdRsv 0 = 0 := by decide

theorem Channel.Inv.scheduleAndTruncate {ch : Channel} (h : ch.Inv) (k : Nat) {w : Word} (hw : cmdRsv w = 0) :
    (ch.scheduleAndTruncate k w).Inv := by
  have hr : ∀ j : Fin RING_CAP, cmdRsv (ch.scheduleAndTruncate k w).ring[j] = 0 :=
    scheduleAndTruncate_words (P := fun w => cmdRsv w = 0) cmdRsv_zero hw h.ring_words k
  rw [scheduleAndTruncate_eq]
  exact h.with_ring hr

/-- An accepted write of a channel register keeps the channel's invariant. -/
theorem Channel.Accepts.inv {v : Word} {r : CReg} {ch x : Channel} (ha : Channel.Accepts v ch r x) (h : ch.Inv) :
    x.Inv := by
  cases ha with
  | setting _ _ hx => rw [hx]; exact h.of_fields
  | level l hl => exact { h with sus_le := hl }
  | noteoff => exact h.forceNoteOff
  | schedule k hw => exact h.scheduleAndTruncate k hw
  | control => exact h.logControl v
  | append hw ho hn => exact h.append hw ho hn

/-! ### The channel operations of a frame -/

theorem Channel.Inv.consume {ch : Channel} (h : ch.Inv) : ch.consume.2.Inv :=
  (h.with_ring (consume_words (P := fun w => cmdRsv w = 0) cmdRsv_zero h.ring_words)).of_fields

/-- A command leaves the key counter or sets it to 0 or to -1 (41_command_apply.md R232). -/
theorem applied_keycnt (ct : Vector Word NOTE_COUNT) (w : Word) (ch : Channel) :
    (ch.applied ct w).keycnt = ch.keycnt ∨ (ch.applied ct w).keycnt = 0 ∨ (ch.applied ct w).keycnt = KEY_OFF := by
  unfold Channel.applied
  split
  · exact .inl rfl
  · exact .inr (.inl (by rw [applyParams_eq]; rfl))
  · exact .inr (.inr (by rw [applyParams_eq]; rfl))
  · exact .inl (by rw [applyParams_eq])

theorem Channel.Inv.applied {ch : Channel} (h : ch.Inv) (ct : Vector Word NOTE_COUNT) (w : Word) :
    (ch.applied ct w).Inv := by
  have hk : -1 ≤ (ch.applied ct w).keycnt.toInt := by
    rcases applied_keycnt ct w ch with e | e | e <;> rw [e]
    · exact h.keycnt_ge
    · decide
    · decide
  rw [applied_eq]
  exact { h with keycnt_ge := hk }

theorem Channel.Inv.fadeStep {ch : Channel} (h : ch.Inv) : ch.fadeStep.Inv := by
  rw [fadeStep_eq]
  exact h.of_fields

theorem Channel.Inv.with_envelope {ch : Channel} (h : ch.Inv) {gain : BitVec 16} {phase : Phase} {keycnt : Word}
    (hg : gain.toNat ≤ GAIN_MAX) (hk : -1 ≤ keycnt.toInt) :
    Channel.Inv { ch with gain := gain, phase := phase, keycnt := keycnt } :=
  { h with gain_le := hg, keycnt_ge := hk }

/-- An exact level up to GAIN_MAX is stored as it is. -/
theorem ofInt16_le {n : Int} (h0 : 0 ≤ n) (h : n ≤ GAIN_MAX) : (BitVec.ofInt 16 n).toNat ≤ GAIN_MAX := by
  simp only [GAIN_MAX] at *
  have := ofInt16_toNat h0 (by omega)
  omega

theorem Channel.Inv.attackStep {ch : Channel} (h : ch.Inv) : ch.attackStep.Inv := by
  unfold Channel.attackStep
  split
  · exact h.with_envelope h.gain_le h.keycnt_ge
  · simp only
    split
    · exact h.with_envelope (by decide) h.keycnt_ge
    · next hg => exact h.with_envelope ((Nat.mod_le _ _).trans (by simp only [GAIN_MAX] at *; omega)) h.keycnt_ge

theorem Channel.Inv.decayStep {ch : Channel} (h : ch.Inv) : ch.decayStep.Inv := by
  have hg := h.gain_le
  have hs := h.sus_le
  unfold Channel.decayStep
  split
  · exact h.with_envelope h.gain_le h.keycnt_ge
  · simp only
    split
    · exact h.with_envelope (ofInt16_le (by omega) (by omega)) (by decide)
    · exact h.with_envelope (ofInt16_le (by omega) (by omega)) h.keycnt_ge

theorem Channel.Inv.heldStep {ch : Channel} (h : ch.Inv) (hk : 0 ≤ ch.keycnt.toInt) : ch.heldStep.Inv := by
  have hs := h.sus_le
  have hf : 0 ≤ ch.keycnt.toInt * ch.fade.toNat := Int.mul_nonneg hk (Int.natCast_nonneg _)
  unfold Channel.heldStep
  simp only
  split
  · exact h.with_envelope (by decide) (by decide)
  · refine h.with_envelope (ofInt16_le (by omega) (by omega)) ?_
    rw [BitVec.toInt_ofInt, Int.bmod_eq_of_le] <;> omega

theorem Channel.Inv.releasedStep {ch : Channel} (h : ch.Inv) : ch.releasedStep.Inv := by
  have hg := h.gain_le
  unfold Channel.releasedStep
  split
  · split
    · exact h.with_envelope (ofInt16_le (by omega) (by omega)) h.keycnt_ge
    · exact h.with_envelope (ofInt16_le (by omega) (by omega)) h.keycnt_ge
  · exact h

theorem Channel.Inv.stepEnvelope {ch : Channel} (h : ch.Inv) : ch.stepEnvelope.Inv := by
  unfold Channel.stepEnvelope
  split
  · exact h.attackStep
  · exact h.decayStep
  · split
    · next hk => exact h.heldStep hk
    · exact h.releasedStep

theorem lfsrStep_ne_zero {r : BitVec LFSR_BITS} (h : r ≠ 0) : lfsrStep r ≠ 0 :=
  fun e => h (lfsrStep_injective (e.trans lsg.lfsrStep_zero.symm))

theorem Channel.Inv.stepNoise {ch : Channel} (h : ch.Inv) : ch.stepNoise.Inv := by
  unfold Channel.stepNoise
  split
  · exact { h with lfsr_ne := lfsrStep_ne_zero h.lfsr_ne }
  · exact h

theorem Channel.Inv.frameStep {ch : Channel} (h : ch.Inv) : ch.frameStep.Inv :=
  Channel.Inv.stepNoise (h.stepEnvelope.of_fields)

theorem Channel.Inv.framed {ch : Channel} (h : ch.Inv) (ct : Vector Word NOTE_COUNT) (tick : Word) :
    (ch.framed ct tick).Inv := by
  unfold Channel.framed
  split
  · exact (h.consume.applied ct _).fadeStep.frameStep
  · exact h.frameStep

theorem Channel.Inv.fill {ch : Channel} (h : ch.Inv) (cur : Nat) : (ch.fill cur).Inv := by
  have hr : ∀ j : Fin RING_CAP, cmdRsv (ch.fill cur).ring[j] = 0 := by
    unfold Channel.fill
    split
    · exact fillUpTo_words (P := fun w => cmdRsv w = 0) cmdRsv_zero cur SCAN_LIMIT h.log_words h.ring_words
    · exact h.ring_words
  rw [fill_eq]
  exact { h with ring_words := hr }

/-! ### Operations on the whole state -/

/-- The invariant looks at three fields of the state. -/
theorem State.Inv.of_fields {s t : State} (h : s.Inv) (hc : t.chans = s.chans := by rfl)
    (ho : t.out = s.out := by rfl) (ht : t.trace = s.trace := by rfl) : t.Inv where
  chans c := by
    have : t.ch c = s.ch c := by unfold State.ch; rw [hc]
    exact this ▸ h.chans c
  out_wf := ho ▸ h.out_wf
  out_bounds := ho ▸ h.out_bounds
  trace_words := ht ▸ h.trace_words

theorem State.Inv.with_chans {s t : State} (h : s.Inv) (hc : ∀ c, (t.ch c).Inv)
    (ho : t.out = s.out := by rfl) (ht : t.trace = s.trace := by rfl) : t.Inv where
  chans := hc
  out_wf := ho ▸ h.out_wf
  out_bounds := ho ▸ h.out_bounds
  trace_words := ht ▸ h.trace_words

theorem State.Inv.mapCh {s : State} (h : s.Inv) {f : Channel → Channel} (hf : ∀ ch, ch.Inv → (f ch).Inv) :
    (s.mapCh f).Inv :=
  h.with_chans (fun c => by rw [ch_mapCh]; exact hf _ (h.chans c))

theorem State.Inv.setCh {s : State} (h : s.Inv) (c : Chan) {x : Channel} (hx : x.Inv) : (s.setCh c x).Inv := by
  refine h.with_chans (fun d => ?_)
  rw [ch_setCh]
  split
  · exact hx
  · exact h.chans d

theorem State.Inv.done {s : State} (h : s.Inv) : (done s).Inv := h.of_fields

theorem State.Inv.fail {s : State} (h : s.Inv) (k : Status) : (fail k s).Inv := h.of_fields

theorem State.powerOn_inv (rest : List Input) : (powerOn (P := lsg) rest).Inv where
  chans c := by
    have : (powerOn (P := lsg) rest).ch c = Channel.reset := ch_atPowerOn (P := lsg) c
    exact this ▸ Channel.reset_inv
  out_wf := rfl
  out_bounds := nofun
  trace_words := nofun

/-- An accepted write of a global register keeps the invariant. -/
theorem State.Accepts.inv {v : Word} {r : GReg} {s x : State} (ha : State.Accepts v s r x) (h : s.Inv) : x.Inv := by
  cases ha with
  | setting _ _ hx | wavetables _ _ _ hx | harmonics _ hx | custom _ hx | taps _ hx =>
    rw [hx]; exact h.of_fields
  | init p _ =>
    exact h.with_chans (fun c => by rw [ch_initBlock]; exact (h.chans c).afterInit)
  | tick n => exact h.of_fields

/-! ### The render -/

/-- The addresses of a frame are ones a render may write (46_render.md R341, R350). -/
def FrameFits (s : State) (i : Nat) : Prop :=
  0 < frameAddr s i ∧ frameAddr s i + frameSize s ≤ OUT_BYTES

theorem frameFits_of_accepted {s : State} (h : s.renderAccepted) {i : Nat} (hi : i < s.rcount.toNat) :
    FrameFits s i := by
  obtain ⟨-, hb, -, he⟩ := h
  have : i * s.rstride.toNat ≤ (s.rcount.toNat - 1) * s.rstride.toNat := Nat.mul_le_mul_right _ (by omega)
  unfold FrameFits frameAddr
  omega

theorem State.Inv.writeFrame {s : State} (h : s.Inv) {i : Nat} (hf : FrameFits s i) (v : Sample) :
    (writeFrame i v s).Inv := by
  have hw := writeFrame_wf i v s h.out_wf
  have hb := writeFrame_keeps (P := fun m => ∀ cell ∈ m, 0 < cell.1 ∧ cell.1 < OUT_BYTES) i v s
    (fun m a x h1 h2 hm cell hc => by
      rcases Memory.mem_write hc with rfl | hc
      · exact ⟨Nat.lt_of_lt_of_le hf.1 h1, Nat.lt_of_lt_of_le h2 hf.2⟩
      · exact hm cell hc) h.out_bounds
  rw [writeFrame_eq]
  exact { h with out_wf := hw, out_bounds := hb }

/-- A record of a word of a ring is of an enabled well-formed word (41_command_apply.md R231, R237). -/
theorem consumedRecord_words {ch : Channel} (h : ch.Inv) {c : Chan} {i : Nat} {r : TraceRec}
    (hr : r ∈ ch.consumedRecord c i) : cmdEn r.word = true ∧ cmdRsv r.word = 0 := by
  unfold Channel.consumedRecord Channel.record at hr
  split at hr
  · next he =>
    rw [List.mem_singleton.1 hr]
    exact ⟨(Bool.and_eq_true_iff.1 he).1, h.ring_words ch.head⟩
  · cases hr

theorem State.Inv.stepAll_consumeAll {s : State} (h : s.Inv) (i : Nat) : (stepAll (consumeAll i s)).Inv := by
  rw [Machine.stepAll_consumeAll]
  refine ⟨fun c => ?_, h.out_wf, h.out_bounds, fun r hr => ?_⟩
  · have : (s.mapCh (Channel.framed s.ct s.tick)).ch c = (s.ch c).framed s.ct s.tick := ch_mapCh _ _ _
    exact this ▸ (h.chans c).framed s.ct s.tick
  · rcases List.mem_append.1 hr with hr | hr
    · exact h.trace_words r hr
    · unfold frameRecords at hr
      split at hr
      · obtain ⟨c, -, hc⟩ := List.mem_flatMap.1 hr
        exact consumedRecord_words (h.chans c) hc
      · cases hr

theorem State.Inv.renderFrame {s : State} (h : s.Inv) {i : Nat} (hf : FrameFits s i) : (renderFrame i s).Inv := by
  have hi := h.stepAll_consumeAll i
  have hf' : FrameFits (stepAll (consumeAll i s)) i := by rw [Machine.stepAll_consumeAll]; exact hf
  exact (hi.writeFrame hf' _).of_fields

theorem State.Inv.renderFrames {s : State} (h : s.Inv) {n : Nat} (hf : ∀ k < n, FrameFits s k) :
    (renderFrames n 0 s).Inv := by
  induction n with
  | zero => exact h
  | succ n ih =>
    rw [renderFrames_last, Nat.zero_add]
    refine (ih fun k hk => hf k (by omega)).renderFrame ?_
    rw [renderFrames_eq]
    exact hf n (by omega)

theorem State.Inv.silentFrames {s : State} (h : s.Inv) {n i : Nat} (hf : ∀ k < n, FrameFits s (i + k)) :
    (silentFrames n i s).Inv := by
  induction n generalizing i s with
  | zero => exact h
  | succ n ih =>
    refine ih (h.writeFrame (hf 0 (by omega)) 0) fun k hk => ?_
    rw [writeFrame_eq]
    exact (by omega : i + (k + 1) = i + 1 + k) ▸ hf (k + 1) (by omega)

theorem State.Inv.render {s t : State} (h : s.Inv) (ht : render s = .next t) : t.Inv := by
  obtain ⟨-, e⟩ | ⟨-, k, e⟩ | ⟨ha, -, e⟩ | ⟨ha, -, e⟩ := render_cases s <;> rw [e, Host.Outcome.next.injEq] at ht <;>
    subst ht
  · exact h
  · exact h.fail k
  · exact (h.silentFrames fun k hk => (Nat.zero_add k).symm ▸ frameFits_of_accepted ha hk).done
  · exact (State.Inv.renderFrames (h.mapCh fun ch hc => hc.fill _) fun k hk => frameFits_of_accepted ha hk).done

/-! ### Register accesses and steps -/

theorem State.Inv.exec_wr {s t : State} (h : s.Inv) (r : Reg) (v : Word) (ht : exec (r.wr v) s = .next t) : t.Inv := by
  cases r with
  | channel c r =>
    obtain ⟨x, ⟨y, ha, rfl⟩, rfl⟩ | ⟨k, rfl⟩ := (settles_wr_channel c v r).next_cases ht
    · exact (h.setCh c (ha.inv (h.chans c))).done
    · exact h.fail k
  | global r =>
    by_cases hr : r = .rgo
    · subst hr; exact h.render ht
    · obtain ⟨x, ha, rfl⟩ | ⟨k, rfl⟩ := (settles_wr_global v hr).next_cases ht
      · exact (ha.inv h).done
      · exact h.fail k

theorem State.Inv.exec_rd {s t : State} (h : s.Inv) (r : Reg) (ht : exec r.rd s = .next t) : t.Inv := by
  cases r with
  | channel c r =>
    obtain ⟨v, e⟩ := exec_rd_channel c r s
    cases e.symm.trans ht
    exact h.of_fields
  | global r =>
    obtain ⟨v, a, b, d, e, he⟩ := exec_rd_global r s
    cases he.symm.trans ht
    exact h.of_fields

theorem State.Inv.rejectAccess {s t : State} (h : s.Inv) {op : BusOp} {why : AccessReject}
    (ht : rejectAccess op why s = .next t) : t.Inv := by
  cases why <;> cases op <;> cases ht <;> exact h.of_fields

theorem State.Inv.step {s t : State} (h : s.Inv) (ht : step s = .next t) : t.Inv := by
  unfold Machine.step stepBy at ht
  split at ht
  · cases ht; exact h
  · cases ht; exact State.powerOn_inv _
  · next op rest _ =>
    have h' : State.Inv { s with pending := rest } := h.of_fields
    unfold performBus at ht
    split at ht
    · next i hi =>
      obtain ⟨r, v, rfl, -⟩ | ⟨r, rfl, -⟩ := bus_of_decodeBus hi
      · exact h'.exec_wr r v ht
      · exact h'.exec_rd r ht
    · exact h'.rejectAccess ht

/-- Settles O11: a block powered on has silent channels, empty logs and rings and no output. -/
theorem resetMeetsTheBlockInvariant : Obligations.ResetMeetsTheBlockInvariant :=
  State.powerOn_inv []

/-- Settles O12: a step is a register access, the reset input or nothing, and each keeps the invariant. -/
theorem stepKeepsTheBlockInvariant : Obligations.StepKeepsTheBlockInvariant :=
  fun _ _ h ht => h.step ht

end Sys2Proof.Machine
end

section
/-!
What register accesses leave alone: refused writes (47_host_ops.md R400), channel operations (R406, 41_command_apply.md
R238), the writers of each store, and the channel status registers (R407, R408).
-/

namespace Sys2Proof.Machine

open Config

/-- Settles O19: a write ends in `done` or in `fail`, and `fail` writes the status alone. -/
theorem refusedWritesChangeOnlyTheStatus : Obligations.RefusedWritesChangeOnlyTheStatus := by
  intro r v s t ht
  cases r with
  | channel c r => exact (settles_wr_channel c v r).ok_or_status_alone ht
  | global r =>
    by_cases hr : r = .rgo
    · subst hr
      have ht : render s = .next t := ht
      obtain ⟨-, e⟩ | ⟨-, k, e⟩ | ⟨-, -, e⟩ | ⟨-, -, e⟩ := render_cases s <;> cases e.symm.trans ht
      · exact .inr rfl
      · exact .inr rfl
      · exact .inl rfl
      · exact .inl rfl
    · exact (settles_wr_global v hr).ok_or_status_alone ht

/-! ### One channel -/

/-- What a command instruction answers, as one update of the state. -/
theorem exec_command_eq (c : Chan) (k : Nat) (fm : CmdForm) (s : State) :
    exec (fm.instr c k) s = .next
      { s.setCh c ((s.ch c).applied s.ct fm.word) with trace := s.trace ++ (s.ch c).record c k fm.word } := by
  rw [exec_command, applyWord_eq]

/-- Settles O60: each of these instructions replaces channel `c` at most. -/
theorem channelOperationsStayInTheirChannel : Obligations.ChannelOperationsStayInTheirChannel := by
  rintro c i s t (⟨r, v, rfl⟩ | ⟨r, rfl⟩ | ⟨k, w, hi⟩) ht
  · obtain ⟨x, ⟨y, -, rfl⟩, rfl⟩ | ⟨k, rfl⟩ := (settles_wr_channel c v r).next_cases ht
    · exact ⟨rfl, fun d hd => ch_setCh_ne s hd y⟩
    · exact ⟨rfl, fun _ _ => rfl⟩
  · obtain ⟨v, e⟩ := exec_rd_channel c r s
    cases e.symm.trans ht
    exact ⟨rfl, fun _ _ => rfl⟩
  · rw [decode_command] at hi
    split at hi <;> cases hi
    cases (exec_command_eq c k (formOf w) s).symm.trans ht
    exact ⟨rfl, fun d hd => ch_setCh_ne s hd _⟩

/-! ### The writers of each store -/

/-- Each store of `t` is that of `s`, or instruction `i` is one of its writers. A clause left out says that the store
is kept, which holds by computation. -/
structure StoresWrittenBy (i : Instr) (s t : State) : Prop where
  wt : t.wt = s.wt ∨ (∃ v, i = .wrWtdata v) ∨ (∃ v, i = .wrGcmd v) ∨ (∃ v, i = .wrCtrl v ∧ v.getLsbD 1 = true) ∨
    ∃ v, decode (.generator v) = .ok i := by exact .inl rfl
  tick : t.tick = s.tick ∨ (∃ v, i = .wrTick v) ∨ (∃ v, i = .wrRgo v) ∨
    ∃ v, i = .wrCtrl v ∧ v.getLsbD 1 = true := by exact .inl rfl
  out : t.out = s.out ∨ ∃ v, i = .wrRgo v := by exact .inl rfl
  ct : t.ct = s.ct ∨ ∃ v, i = .wrCtdata v := by exact .inl rfl
  hc : t.hc = s.hc ∨ ∃ v, i = .wrHcdata v := by exact .inl rfl
  tap : t.tap = s.tap ∨ ∃ v, i = .wrTapdata v := by exact .inl rfl
  log : ∀ c : Chan, (t.ch c).log = (s.ch c).log ∨ (∃ v, i = .wrChAppcmd c v) ∨
    ∃ v, i = .wrChLogctrl c v ∧ v.getLsbD 2 = true := by exact fun _ => .inl rfl
  ring : ∀ c : Chan, ((t.ch c).ring = (s.ch c).ring ∧ (t.ch c).head = (s.ch c).head) ∨
    (∃ v, i = .wrChSchcmd c v ∧ (t.ch c).head = (s.ch c).head) ∨ (∃ v, i = .wrRgo v) ∨
    ∃ v, i = .wrCtrl v ∧ v.getLsbD 1 = true := by exact fun _ => .inl ⟨rfl, rfl⟩
  trace : t.trace = s.trace ∨ (∃ v, i = .wrRgo v) ∨
    ∃ c k f, i = .keyon c k f ∨ i = .keyoff c k f ∨ ∃ kon, i = .param c k kon f := by exact .inl rfl

/-- A channel replaced by one with the same log, ring and head, or by a writer of the one that differs. -/
theorem storesWrittenBy_setCh {i : Instr} {s : State} {c : Chan} {y : Channel}
    (hl : y.log = (s.ch c).log ∨ (∃ v, i = .wrChAppcmd c v) ∨ ∃ v, i = .wrChLogctrl c v ∧ v.getLsbD 2 = true)
    (hr : (y.ring = (s.ch c).ring ∧ y.head = (s.ch c).head) ∨
      (∃ v, i = .wrChSchcmd c v ∧ y.head = (s.ch c).head) ∨ (∃ v, i = .wrRgo v) ∨
      ∃ v, i = .wrCtrl v ∧ v.getLsbD 1 = true) : StoresWrittenBy i s (done (s.setCh c y)) := by
  refine { log := fun d => ?_, ring := fun d => ?_ } <;> rw [done_ch, ch_setCh]
  · split
    · next hd => subst hd; exact hl
    · exact .inl rfl
  · split
    · next hd => subst hd; exact hr
    · exact .inl ⟨rfl, rfl⟩

theorem storesWrittenBy_command (c : Chan) (k : Nat) (fm : CmdForm) {s t : State}
    (ht : exec (fm.instr c k) s = .next t) : StoresWrittenBy (fm.instr c k) s t := by
  have hch : StoresWrittenBy (fm.instr c k) s (done (s.setCh c ((s.ch c).applied s.ct fm.word))) :=
    storesWrittenBy_setCh (.inl (by rw [applied_eq])) (.inl (by rw [applied_eq]; exact ⟨rfl, rfl⟩))
  cases (exec_command_eq c k fm s).symm.trans ht
  refine { log := hch.log, ring := hch.ring, trace := ?_ }
  cases fm with
  | nop kon nokey f => exact .inl (by simp [Channel.record, CmdForm.word])
  | keyon f => exact .inr (.inr ⟨c, k, f, .inl rfl⟩)
  | keyoff f => exact .inr (.inr ⟨c, k, f, .inr (.inl rfl)⟩)
  | param kon f => exact .inr (.inr ⟨c, k, f, .inr (.inr ⟨kon, rfl⟩)⟩)

/-- Every generator operation has a word. -/
theorem decode_genWord {op : BitVec 4} {dst srcA srcB : BitVec 8} {i : Instr}
    (h : genInstr dst srcA srcB op.toNat = some i) : decode (.generator (genWord op dst srcA srcB)) = .ok i := by
  obtain ⟨ho, hr, hd, ha, hb⟩ := genWord_fields op dst srcA srcB
  rw [decode_generator, ho, hr, hd, ha, hb, h]
  rfl

theorem storesWrittenBy_generator {op : BitVec 4} {dst srcA srcB : BitVec 8} {i : Instr}
    (h : genInstr dst srcA srcB op.toNat = some i) {s t : State} (ht : exec i s = .next t) : StoresWrittenBy i s t := by
  obtain ⟨x, hx, rfl⟩ | ⟨k, rfl⟩ := (settles_generator h).next_cases ht
  · unfold WavetablesFilled at hx
    rw [hx]
    exact { wt := .inr (.inr (.inr (.inr ⟨_, decode_genWord h⟩))) }
  · exact {}

theorem storesWrittenBy_wr_channel (c : Chan) (v : Word) (r : CReg) {s t : State}
    (ht : exec (r.wr c v) s = .next t) : StoresWrittenBy (r.wr c v) s t := by
  obtain ⟨x, ⟨y, ha, rfl⟩, rfl⟩ | ⟨k, rfl⟩ := (settles_wr_channel c v r).next_cases ht
  · cases ha with
    | setting _ _ hy => exact storesWrittenBy_setCh (.inl (by rw [hy])) (.inl ⟨by rw [hy], by rw [hy]⟩)
    | level l _ => exact storesWrittenBy_setCh (.inl rfl) (.inl ⟨rfl, rfl⟩)
    | noteoff => exact storesWrittenBy_setCh (.inl rfl) (.inl ⟨rfl, rfl⟩)
    | schedule k _ =>
      rw [scheduleAndTruncate_eq]
      exact storesWrittenBy_setCh (.inl rfl) (.inr (.inl ⟨v, rfl, rfl⟩))
    | append => exact storesWrittenBy_setCh (.inr (.inl ⟨v, rfl⟩)) (.inl ⟨rfl, rfl⟩)
    | control =>
      refine storesWrittenBy_setCh ?_ (.inl (by rw [logControl_eq]; exact ⟨rfl, rfl⟩))
      cases hv : v.getLsbD 2
      · exact .inl (by rw [logControl_eq, hv]; rfl)
      · exact .inr (.inr ⟨v, rfl, hv⟩)
  · exact {}

theorem consumed_log (ct : Vector Word NOTE_COUNT) (ch : Channel) : (ch.consumed ct).log = ch.log := by
  unfold Channel.consumed
  rw [fadeStep_eq, applied_eq, consume_eq]

theorem framed_log (ct : Vector Word NOTE_COUNT) (tick : Word) (ch : Channel) :
    (ch.framed ct tick).log = ch.log := by
  unfold Channel.framed
  rw [frameStep_eq]
  split
  · exact consumed_log ct ch
  · rfl

/-- A run of frames leaves every log (46_render.md R353). -/
theorem played_log (ct : Vector Word NOTE_COUNT) (n : Nat) (tick : Word) (ch : Channel) :
    (ch.played ct n tick).log = ch.log := by
  induction n generalizing tick ch with
  | zero => rfl
  | succ n ih =>
    unfold Channel.played
    rw [ih, framed_log]

theorem storesWrittenBy_render (v : Word) {s t : State} (ht : render s = .next t) :
    StoresWrittenBy (.wrRgo v) s t := by
  have hl : ∀ n c, ((renderFrames n 0 (fillAll s)).ch c).log = (s.ch c).log := by
    intro n c
    rw [ch_renderFrames, played_log]
    unfold fillAll
    rw [ch_mapCh, fill_eq]
  obtain ⟨-, e⟩ | ⟨-, k, e⟩ | ⟨-, -, e⟩ | ⟨-, -, e⟩ := render_cases s <;> cases e.symm.trans ht
  · exact {}
  · exact {}
  · rw [silentFrames_eq]
    exact { out := .inr ⟨v, rfl⟩ }
  · have hl := hl s.rcount.toNat
    rw [renderFrames_eq] at hl ⊢
    exact {
      tick := .inr (.inr (.inl ⟨v, rfl⟩))
      out := .inr ⟨v, rfl⟩
      log := fun c => .inl (hl c)
      ring := fun _ => .inr (.inr (.inl ⟨v, rfl⟩))
      trace := .inr (.inl ⟨v, rfl⟩) }

theorem storesWrittenBy_wr_global (v : Word) (r : GReg) {s t : State} (ht : exec (r.wr v) s = .next t) :
    StoresWrittenBy (r.wr v) s t := by
  by_cases hr : r = .rgo
  · subst hr; exact storesWrittenBy_render v ht
  obtain ⟨x, ha, rfl⟩ | ⟨k, rfl⟩ := (settles_wr_global v hr).next_cases ht
  · cases ha with
    | setting _ _ hx => rw [hx]; exact {}
    | init p hv =>
      exact {
        wt := .inr (.inr (.inr (.inl ⟨v, rfl, hv⟩)))
        tick := .inr (.inr (.inr ⟨v, rfl, hv⟩))
        log := fun c => .inl (by rw [done_ch, ch_initBlock]; rfl)
        ring := fun _ => .inr (.inr (.inr ⟨v, rfl, hv⟩)) }
    | tick n => exact { tick := .inr (.inl ⟨v, rfl⟩) }
    | wavetables _ _ hr hx =>
      rw [hx]
      refine { wt := .inr ?_ }
      obtain rfl | rfl := hr
      · exact .inl ⟨v, rfl⟩
      · exact .inr (.inl ⟨v, rfl⟩)
    | harmonics _ hx => rw [hx]; exact { hc := .inr ⟨v, rfl⟩ }
    | custom _ hx => rw [hx]; exact { ct := .inr ⟨v, rfl⟩ }
    | taps _ hx => rw [hx]; exact { tap := .inr ⟨v, rfl⟩ }
  · exact {}

theorem storesWrittenBy_rd (r : Reg) {s t : State} (ht : exec r.rd s = .next t) : StoresWrittenBy r.rd s t := by
  cases r with
  | channel c r =>
    obtain ⟨v, e⟩ := exec_rd_channel c r s
    cases e.symm.trans ht
    exact {}
  | global r =>
    obtain ⟨v, a, b, d, e, he⟩ := exec_rd_global r s
    cases he.symm.trans ht
    exact {}

theorem storesWrittenBy_exec (i : Instr) {s t : State} (ht : exec i s = .next t) : StoresWrittenBy i s t := by
  obtain ⟨c, k, fm, rfl⟩ | ⟨op, dst, srcA, srcB, h⟩ | ⟨r, v, rfl⟩ | ⟨r, rfl⟩ := i.kinds
  · exact storesWrittenBy_command c k fm ht
  · exact storesWrittenBy_generator h ht
  · cases r with
    | channel c r => exact storesWrittenBy_wr_channel c v r ht
    | global r => exact storesWrittenBy_wr_global v r ht
  · exact storesWrittenBy_rd r ht

/-- Settles O59: by the kind of the instruction. -/
theorem storesAreWrittenOnlyByTheirOperations : Obligations.StoresAreWrittenOnlyByTheirOperations := by
  intro i s t ht
  obtain ⟨wt, tick, out, ct, hc, tap, log, ring, trace⟩ := storesWrittenBy_exec i ht
  exact ⟨wt.resolve_left, tick.resolve_left, out.resolve_left, ct.resolve_left, hc.resolve_left, tap.resolve_left,
    fun c => (log c).resolve_left, fun c h => (ring c).resolve_left fun ⟨hr, hh⟩ => h.elim (· hr) (· hh),
    trace.resolve_left⟩

/-! ### Channel status registers -/

/-- Settles O20: each read answers the field, each write is refused. -/
theorem channelStatusRegistersShowTheChannel : Obligations.ChannelStatusRegistersShowTheChannel := by
  intro c v s
  have zeroExtended {n : Nat} (x : BitVec n) : answer (x.setWidth 32) s = answer (BitVec.ofNat 32 x.toNat) s := by
    rw [setWidth_eq_ofNat]
  have whole (x : Word) : answer x s = answer (BitVec.ofNat 32 x.toNat) s := by
    rw [BitVec.ofNat_toNat, BitVec.setWidth_eq]
  have signed (x : Word) : answer x s = answer (BitVec.ofInt 32 x.toInt) s := by rw [BitVec.ofInt_toInt]
  refine ⟨fun i hi => ?_, ?_, zeroExtended _, signed _, zeroExtended _, whole _, whole _, zeroExtended _, rfl,
    zeroExtended _, rfl⟩
  · simp only [List.mem_cons, List.not_mem_nil, or_false] at hi
    rcases hi with rfl | rfl | rfl | rfl | rfl | rfl | rfl | rfl | rfl | rfl <;> rfl
  · show answer ((s.ch c).phase.code.setWidth 32) s = _
    cases (s.ch c).phase <;> rfl

end Sys2Proof.Machine
end

section
/-!
The ring over a run of frames (44_ring.md R304), the limits of a fill (45_log_fill.md R325) and the noise step
(43_oscillator_gain.md R281).
-/

namespace Sys2Proof.Machine

open Config

/-! ### The ring over a run of frames -/

/-- Slots and head of a channel are all that a slot by offset depends on. -/
theorem slotAt_congr {x y : Channel} (hr : x.ring = y.ring) (hh : x.head = y.head) (j : Nat) :
    x.slotAt j = y.slotAt j := by
  simp only [Channel.slotAt, hr, hh]

theorem slotAt_frameStep (ch : Channel) (j : Nat) : ch.frameStep.slotAt j = ch.slotAt j :=
  slotAt_congr (by rw [frameStep_eq]) (by rw [frameStep_eq]) j

/-- A consumption tick moves each slot one offset closer to the head. -/
theorem slotAt_consumed (ct : Vector Word NOTE_COUNT) (ch : Channel) {j : Nat} (h : j + 1 < RING_CAP) :
    (ch.consumed ct).slotAt j = ch.slotAt (j + 1) := by
  have e : (ch.consumed ct).slotAt j = ch.consume.2.slotAt j := by
    unfold Channel.consumed
    exact slotAt_congr (by rw [fadeStep_eq, applied_eq]) (by rw [fadeStep_eq, applied_eq]) j
  rw [e, slotAt_consume ch (by omega), if_pos h]

theorem slotAt_framed_tick (ct : Vector Word NOTE_COUNT) {tick : Word} (ht : tick.toNat % FI = 0) (ch : Channel)
    {j : Nat} (h : j + 1 < RING_CAP) : (ch.framed ct tick).slotAt j = ch.slotAt (j + 1) := by
  unfold Channel.framed
  rw [slotAt_frameStep, if_pos ht, slotAt_consumed ct ch h]

theorem slotAt_framed_other (ct : Vector Word NOTE_COUNT) {tick : Word} (ht : tick.toNat % FI ≠ 0) (ch : Channel)
    (j : Nat) : (ch.framed ct tick).slotAt j = ch.slotAt j := by
  unfold Channel.framed
  rw [slotAt_frameStep, if_neg ht]

/-- The number of consumption ticks among the `n` ticks from `tick` on (46_render.md R345). -/
def ticksConsumed (tick n : Nat) : Nat := (n + (tick + (FI - 1)) % FI) / FI

theorem ticksConsumed_succ (tick n : Nat) :
    ticksConsumed tick (n + 1) = ticksConsumed ((tick + 1) % 2 ^ 32) n + if tick % FI = 0 then 1 else 0 := by
  simp only [ticksConsumed, FI]
  split <;> omega

/-- Over a run of frames every slot moves closer to the head by one offset for each consumption tick. -/
theorem slotAt_played (ct : Vector Word NOTE_COUNT) (n : Nat) (tick : Word) (ch : Channel) {j : Nat}
    (h : j + ticksConsumed tick.toNat n < RING_CAP) :
    (ch.played ct n tick).slotAt j = ch.slotAt (j + ticksConsumed tick.toNat n) := by
  induction n generalizing tick ch with
  | zero => exact congrArg ch.slotAt (by simp only [ticksConsumed, FI]; omega)
  | succ n ih =>
    have ht : (tick + 1).toNat = (tick.toNat + 1) % 2 ^ 32 := BitVec.toNat_add tick 1
    have hn := ticksConsumed_succ tick.toNat n
    rw [← ht] at hn
    unfold Channel.played
    split at hn
    · next h0 =>
      rw [ih (tick + 1) _ (by omega), slotAt_framed_tick ct h0 ch (by omega)]
      exact congrArg ch.slotAt (by omega)
    · next h0 =>
      rw [ih (tick + 1) _ (by omega), slotAt_framed_other ct h0 ch]
      exact congrArg ch.slotAt (by omega)

/-- Settles O48: `k` consumption ticks pass before tick `t₀ + k·FI`, so the slot at offset `k` is at the head there. -/
theorem scheduledWordIsConsumedInItsTurn : Obligations.ScheduledWordIsConsumedInItsTurn := by
  intro s c k i hk t
  have hn : ticksConsumed s.tick.toNat (s.framesToConsumption + k * FI) = k := by
    simp only [ticksConsumed, State.framesToConsumption, FI]
    omega
  constructor
  · show (renderFrames _ i s).tick.toNat % FI = 0
    rw [renderFrames_tick, BitVec.toNat_add, BitVec.toNat_ofNat]
    simp only [State.framesToConsumption, FI, TICK_BITS]
    omega
  · show ((renderFrames _ i s).ch c).consume.1 = _
    rw [ch_renderFrames, consume_word, slotAt_played _ _ _ _ (by omega), hn, Nat.zero_add]

/-! ### The limits of a fill -/

/-- Up to `n` advances move the cursor up by at most `n`, and never past its saturated value (10_state.md R46). -/
theorem fillUpTo_cursor (cur n : Nat) (ch : Channel) :
    ch.cursor.toNat ≤ (Channel.fillUpTo cur n ch).cursor.toNat ∧
    (Channel.fillUpTo cur n ch).cursor.toNat ≤ ch.cursor.toNat + n := by
  induction n generalizing ch with
  | zero => exact ⟨le_refl _, le_refl _⟩
  | succ n ih =>
    unfold Channel.fillUpTo
    split
    · exact ⟨le_refl _, Nat.le_add_right _ _⟩
    · next x hx =>
      obtain ⟨_, _, hmax, -, -, -, hx⟩ := fillOnce_eq_some hx
      have hc : x.cursor.toNat = ch.cursor.toNat + 1 := by
        have := ch.cursor.isLt
        unfold cursorMax at hmax
        rw [hx]
        show (ch.cursor + 1).toNat = _
        rw [BitVec.toNat_add]
        exact Nat.mod_eq_of_lt (by simp; omega)
      have := ih x
      omega

/-- Settles O50: by induction over the advances, at most `SCAN_LIMIT` of them. -/
theorem fillAdvancesTheCursorWithinLimits : Obligations.FillAdvancesTheCursorWithinLimits := by
  intro cur ch
  refine ⟨fill_eq cur ch, ?_⟩
  unfold Channel.fill
  split
  · exact fillUpTo_cursor cur SCAN_LIMIT ch
  · exact ⟨le_refl _, Nat.le_add_right _ _⟩

/-! ### The noise step -/

/-- The bits of the next noise register (43_oscillator_gain.md R281). -/
theorem lfsrStep_getLsbD (r : BitVec LFSR_BITS) (k : Nat) :
    (lfsrStep r).getLsbD k =
      if k < 14 then r.getLsbD (k + 1) else if k = 14 then r.getLsbD 0 ^^ r.getLsbD 1 else false := by
  have e : (lfsrStep r).getLsbD k =
      if k < 14 then (r.extractLsb' 1 14).getLsbD k
      else (BitVec.ofBool (r.getLsbD 0 ^^ r.getLsbD 1)).getLsbD (k - 14) := BitVec.getLsbD_append
  rw [e]
  split
  · next h => simp only [BitVec.getLsbD_extractLsb', h, decide_true, Bool.true_and, Nat.add_comm 1 k]
  · next h =>
    rw [BitVec.getLsbD_ofBool]
    by_cases h14 : k = 14
    · simp [h14]
    · simp [h14, show k - 14 ≠ 0 by omega]

theorem lfsrStep_eq_zero (r : BitVec LFSR_BITS) : lfsrStep r = 0 ↔ r = 0 := by
  constructor
  · intro h
    by_contra hr
    exact lfsrStep_ne_zero hr h
  · rintro rfl
    exact lsg.lfsrStep_zero

/-- Settles O45: an injective step of a finite set is a bijection, and it maps 0 to 0. -/
theorem noiseStepPermutesTheRegister : Obligations.NoiseStepPermutesTheRegister := by
  have hb : Function.Bijective lfsrStep := Finite.injective_iff_bijective.1 lfsrStep_injective
  exact ⟨hb, lfsrStep_eq_zero, lfsrStep_getLsbD⟩

end Sys2Proof.Machine
end

section
/-!
Host accesses (20_memory.md R101, R109; 47_host_ops.md R406, R410): which access decodes to what, what a step does with
each, and what a read leaves alone.
-/

namespace Sys2Proof

open Config

variable {P : Params}

/-! ### What an access decodes to -/

/-- A 32-bit access at a multiple of 4, the one form of access that has a meaning (20_memory.md R101). -/
def BusOp.IsWord : BusOp → Prop
  | .write w a _ => w = .word ∧ a.toNat % 4 = 0
  | .read w a => w = .word ∧ a.toNat % 4 = 0

/-- The register operation an access performs on the register at its address. -/
def BusOp.instr (r : Reg P) : BusOp → Instr P
  | .write _ _ v => r.wr v
  | .read _ _ => r.rd

/-- The address of an access. -/
def BusOp.addr : BusOp → BitVec 13
  | .write _ a _ => a
  | .read _ a => a

theorem aligned_iff (a : BitVec 13) : a.extractLsb' 0 2 = 0 ↔ a.toNat % 4 = 0 := by
  rw [← BitVec.toNat_inj, BitVec.extractLsb'_toNat, Nat.shiftRight_zero]
  rfl

theorem checkAccess_word {a : BitVec 13} (h : a.toNat % 4 = 0) : checkAccess .word a = .ok () := by
  simp [checkAccess, (aligned_iff a).2 h]

theorem checkAccess_not_word {w : Width} {a : BitVec 13} (h : ¬ (w = .word ∧ a.toNat % 4 = 0)) :
    ∃ why, checkAccess w a = .error why ∧ (why = .notAWord ∨ why = .misaligned) := by
  unfold checkAccess
  by_cases hw : w = .word
  · have ha : ¬ a.extractLsb' 0 2 = 0 := fun ha => h ⟨hw, (aligned_iff a).1 ha⟩
    exact ⟨.misaligned, by rw [if_neg (not_not.2 hw), if_pos ha], .inr rfl⟩
  · exact ⟨.notAWord, if_pos hw, .inl rfl⟩

/-- A word access decodes by its address alone. -/
theorem decodeBus_word {op : BusOp} (h : op.IsWord) :
    decodeBus op = (decodeAddr (P := P) op.addr).map (BusOp.instr · op) := by
  cases op <;> obtain ⟨rfl, ha⟩ := h <;> simp only [decodeBus, checkAccess_word ha] <;> rfl

theorem decodeBus_not_word {op : BusOp} (h : ¬ op.IsWord) :
    ∃ why, decodeBus (P := P) op = .error why ∧ (why = .notAWord ∨ why = .misaligned) := by
  cases op <;>
  · obtain ⟨why, hc, hw⟩ := checkAccess_not_word h
    exact ⟨why, by simp only [decodeBus, hc], hw⟩

theorem decode_bus_ok {op : BusOp} {i : Instr P} : decode (.bus op) = .ok i ↔ decodeBus op = .ok i := by
  show (decodeBus op).mapError Reject.access = .ok i ↔ _
  cases decodeBus (P := P) op <;> simp [Except.mapError]

/-- The first address past the blocks of the present channels (10_state.md R54, R60). -/
def channelBlocksEnd (P : Params) : Nat := 0x1000 + P.numCh * 0x100

theorem channelBlocksEnd_lsg : channelBlocksEnd Machine.lsg = 0x1000 + NUM_CH * 0x100 := rfl

/-- Address decode by the place of the address (10_state.md R54, R60): an address at or past the blocks of the present
channels is in an absent block; below, it names a register or is unmapped. -/
theorem decodeAddr_cases (a : BitVec 13) :
    (channelBlocksEnd P ≤ a.toNat ∧ decodeAddr (P := P) a = .error .absentChannel) ∨
    (a.toNat < channelBlocksEnd P ∧
      ((∃ r : Reg P, decodeAddr a = .ok r) ∨ decodeAddr (P := P) a = .error .unmapped)) := by
  have hbit : a.getLsbD 12 = decide (0x1000 ≤ a.toNat) := BitVec.msb_eq_decide a
  have hch : (a.extractLsb' 8 4).toNat = a.toNat / 0x100 % 0x10 := by
    rw [BitVec.extractLsb'_toNat, Nat.shiftRight_eq_div_pow]
  have := a.isLt
  unfold decodeAddr channelBlocksEnd
  by_cases hb : 0x1000 ≤ a.toNat
  · rw [if_pos (hbit.trans (decide_eq_true hb))]
    by_cases hc : (a.extractLsb' 8 4).toNat < P.numCh
    · rw [dif_pos hc]
      refine .inr ⟨by omega, ?_⟩
      split
      · exact .inl ⟨_, rfl⟩
      · exact .inr rfl
    · exact .inl ⟨by omega, dif_neg hc⟩
  · rw [if_neg (by rw [hbit, decide_eq_false hb]; exact Bool.false_ne_true)]
    refine .inr ⟨by omega, ?_⟩
    split
    · exact .inl ⟨_, rfl⟩
    · exact .inr rfl

theorem decodeAddr_absent {a : BitVec 13} (h : channelBlocksEnd P ≤ a.toNat) :
    decodeAddr (P := P) a = .error .absentChannel := by
  obtain ⟨-, he⟩ | ⟨hlt, -⟩ := decodeAddr_cases (P := P) a
  · exact he
  · omega

theorem decodeAddr_unmapped {a : BitVec 13} (h : a.toNat < channelBlocksEnd P)
    (hr : ∀ r : Reg P, r.addr ≠ a) : decodeAddr (P := P) a = .error .unmapped := by
  obtain ⟨hle, -⟩ | ⟨-, ⟨r, hok⟩ | he⟩ := decodeAddr_cases (P := P) a
  · omega
  · exact absurd (addr_of_decodeAddr hok) (hr r)
  · exact he

namespace Machine

/-! ### What a step does with an access -/

section Dispatch

variable {run : Instr P → State P → Result P} {s : State P} {op : BusOp} {rest : List Input}

theorem stepBy_idle (h : s.pending = []) : stepBy run s = .next s := by
  unfold stepBy; rw [h]

theorem stepBy_reset (h : s.pending = .reset :: rest) : stepBy run s = .next (powerOn rest) := by
  unfold stepBy; rw [h]

theorem stepBy_bus (h : s.pending = .bus op :: rest) :
    stepBy run s = performBus run op { s with pending := rest } := by
  unfold stepBy; rw [h]

theorem performBus_ok {i : Instr P} (h : decodeBus op = .ok i) : performBus run op s = run i s := by
  unfold performBus; rw [h]

theorem performBus_error {why : AccessReject} (h : decodeBus (P := P) op = .error why) :
    performBus run op s = rejectAccess op why s := by
  unfold performBus; rw [h]

/-- A word access whose address does not decode is answered by its rejection (47_host_ops.md R410). -/
theorem performBus_word_error {why : AccessReject} (hw : op.IsWord)
    (h : decodeAddr (P := P) op.addr = .error why) : performBus run op s = rejectAccess op why s :=
  performBus_error (by rw [decodeBus_word hw, h]; rfl)

/-- An access that is no word access is refused without meaning (20_memory.md R101). -/
theorem performBus_not_word (h : ¬ op.IsWord) :
    ∃ why, performBus run op s = .refused (.accessWithoutMeaning why) := by
  obtain ⟨why, hd, hw⟩ := decodeBus_not_word (P := P) h
  refine ⟨why, (performBus_error hd).trans ?_⟩
  obtain rfl | rfl := hw <;> rfl

/-- A read of an address that names no register answers 0 (47_host_ops.md R410). -/
theorem performBus_read_unmapped {a : BitVec 13} (ha : a.toNat % 4 = 0) (hr : ∀ r : Reg P, r.addr ≠ a) :
    performBus run (.read .word a) s = answer 0 s := by
  have hw : (BusOp.read .word a).IsWord := ⟨rfl, ha⟩
  obtain ⟨-, he⟩ | ⟨hlt, -⟩ := decodeAddr_cases (P := P) a
  · exact performBus_word_error hw he
  · exact performBus_word_error hw (decodeAddr_unmapped hlt hr)

/-- A step with an access pending that decodes is the dispatch of its instruction. -/
theorem stepBy_decoded {i : Instr P} (hp : s.pending = .bus op :: rest) (hd : decode (.bus op) = .ok i) :
    stepBy run s = run i { s with pending := rest } :=
  (stepBy_bus hp).trans (performBus_ok (decode_bus_ok.1 hd))

end Dispatch

/-- Settles O5: `stepBy` decodes the head of the pending list and runs the dispatch, `exec` or `execIn`, on it. -/
theorem stepPerformsTheDecodedAccess : Obligations.StepPerformsTheDecodedAccess :=
  ⟨fun _ _ => ⟨fun _ _ hp hd => stepBy_decoded hp hd, stepBy_idle⟩,
    fun _ _ _ => ⟨fun _ _ hp hd => stepBy_decoded hp hd, stepBy_idle⟩⟩

/-- No register, global or of a channel, is at the address. -/
theorem addr_ne_of_unnamed {a : BitVec 13} (hg : ∀ r : GReg, r.addr ≠ a)
    (hc : ∀ (c : Chan P) (r : CReg), r.addr c ≠ a) : ∀ r : Reg P, r.addr ≠ a
  | .global r => hg r
  | .channel c r => hc c r

/-- Settles O6: an access that is no word access is refused; a word access that names no register is answered by the
rejection of its address. -/
theorem unmappedAccessesAreAnswered : Obligations.UnmappedAccessesAreAnswered := by
  intro s rest w a v
  refine ⟨fun hp => ?_, fun hp => ?_⟩
  · have hstep : step s = _ := stepBy_bus hp
    rw [hstep]
    refine ⟨fun h => performBus_not_word (not_and_or.2 h), ?_, ?_⟩ <;> rintro rfl ha
    · intro hle
      exact performBus_word_error (op := .write .word a v) ⟨rfl, ha⟩
        (decodeAddr_absent (channelBlocksEnd_lsg.trans_le hle))
    · intro hlt hg hc
      exact performBus_word_error (op := .write .word a v) ⟨rfl, ha⟩
        (decodeAddr_unmapped (hlt.trans_eq channelBlocksEnd_lsg.symm) (addr_ne_of_unnamed hg hc))
  · have hstep : step s = _ := stepBy_bus hp
    rw [hstep]
    refine ⟨fun h => performBus_not_word (not_and_or.2 h), ?_⟩
    rintro rfl ha hg hc
    exact performBus_read_unmapped ha (addr_ne_of_unnamed hg hc)

/-! ### Word accesses complete -/

theorem Settles.next {m : State → Result} {A : State → State → Prop} (h : Settles m A) (s : State) :
    ∃ t, m s = .next t := by
  obtain ⟨g, hm, -⟩ := h
  exact ⟨_, hm s⟩

theorem render_next (s : State) : ∃ t, render s = .next t := by
  obtain ⟨-, e⟩ | ⟨-, k, e⟩ | ⟨-, -, e⟩ | ⟨-, -, e⟩ := render_cases s <;> exact ⟨_, e⟩

theorem exec_wr_next (r : Reg) (v : Word) (s : State) : ∃ t, exec (r.wr v) s = .next t := by
  cases r with
  | channel c r => exact (settles_wr_channel c v r).next s
  | global r =>
    by_cases hr : r = .rgo
    · subst hr; exact render_next s
    · exact (settles_wr_global v hr).next s

theorem exec_rd_next (r : Reg) (s : State) : ∃ t, exec r.rd s = .next t := by
  cases r with
  | channel c r =>
    obtain ⟨_, h⟩ := exec_rd_channel c r s
    exact ⟨_, h⟩
  | global r =>
    obtain ⟨_, _, _, _, _, h⟩ := exec_rd_global r s
    exact ⟨_, h⟩

theorem exec_busInstr_next (op : BusOp) (r : Reg) (s : State) : ∃ t, exec (op.instr r) s = .next t := by
  cases op with
  | write w a v => exact exec_wr_next r v s
  | read w a => exact exec_rd_next r s

theorem rejectAccess_next {why : AccessReject} (h : why = .absentChannel ∨ why = .unmapped) (op : BusOp) (s : State) :
    ∃ t, rejectAccess op why s = .next t := by
  obtain rfl | rfl := h <;> cases op <;> exact ⟨_, rfl⟩

theorem performBus_word_next {op : BusOp} (h : op.IsWord) (s : State) : ∃ t, performBus exec op s = .next t := by
  obtain ⟨-, he⟩ | ⟨-, ⟨r, hok⟩ | he⟩ := decodeAddr_cases (P := lsg) op.addr
  · rw [performBus_word_error h he]; exact rejectAccess_next (.inl rfl) op s
  · rw [performBus_ok (by rw [decodeBus_word h, hok]; rfl)]; exact exec_busInstr_next op r s
  · rw [performBus_word_error h he]; exact rejectAccess_next (.inr rfl) op s

theorem performBus_next_iff (op : BusOp) (s : State) : (∃ t, performBus exec op s = .next t) ↔ op.IsWord := by
  refine ⟨fun ⟨t, ht⟩ => ?_, fun h => performBus_word_next h s⟩
  by_contra h
  obtain ⟨why, hr⟩ := performBus_not_word (run := exec) (s := s) h
  cases hr.symm.trans ht

/-- `State.nextAccessIsWord` by the head of the pending list. -/
theorem nextAccessIsWord_bus {s : State} {op : BusOp} {rest : List Input} (h : s.pending = .bus op :: rest) :
    s.nextAccessIsWord ↔ op.IsWord := by
  unfold State.nextAccessIsWord
  rw [h]
  cases op <;> rfl

/-- Settles O8: by the head of the pending list; a word access names a register, whose operation completes, or is
answered, and any other access is refused. -/
theorem stepStopsOnlyOnMeaninglessAccesses : Obligations.StepStopsOnlyOnMeaninglessAccesses := by
  intro s
  have total {t : State} (ht : step s = .next t) (h : s.nextAccessIsWord) :
      (∃ t, step s = .next t) ↔ s.nextAccessIsWord := ⟨fun _ => h, fun _ => ⟨t, ht⟩⟩
  match hp : s.pending with
  | [] => exact total (stepBy_idle hp) (by unfold State.nextAccessIsWord; rw [hp]; trivial)
  | .reset :: _ => exact total (stepBy_reset hp) (by unfold State.nextAccessIsWord; rw [hp]; trivial)
  | .bus op :: _ =>
    have hstep : step s = _ := stepBy_bus hp
    rw [hstep, nextAccessIsWord_bus hp]
    exact performBus_next_iff op _

/-! ### Reads -/

/-- A read of a global register that is no data port returns a value and does nothing else (20_memory.md R109). -/
theorem exec_rd_no_port (r : GReg) (h : r.dataPort = false) (s : State) :
    ∃ x, exec r.rd s = .next { s with rdata := x } := by
  cases r
  case wtdata | hcdata | ctdata | tapdata => cases h
  all_goals exact ⟨_, rfl⟩

/-- A read of a channel register returns a value that depends on its channel alone (47_host_ops.md R406); the three
write-only registers read 0. -/
theorem exec_rd_channel_congr (c : Chan) (r : CReg) (s : State) :
    ∃ x, ∀ u : State, u.ch c = s.ch c → exec (r.rd c) u = .next { u with rdata := x } := by
  cases r
  case noteoff | schcmd | appcmd => exact ⟨0, fun _ _ => rfl⟩
  case ringdata => exact ⟨(s.ch c).ring[(s.ch c).ringidx], fun u hu => by simp only [← hu]; rfl⟩
  all_goals
    apply Exists.intro
    intro u hu
    change answer _ u = answer _ u
    rw [hu]

/-- Settles O18: a read is `answer`, on the state itself or, for a data port, on the state with its pointer advanced. -/
theorem readsHaveNoOtherEffect : Obligations.ReadsHaveNoOtherEffect := fun s =>
  ⟨fun r h => exec_rd_no_port r h s, ⟨_, _, rfl⟩, ⟨_, _, rfl⟩, ⟨_, _, rfl⟩, ⟨_, _, rfl⟩,
    fun c r => exec_rd_channel_congr c r s⟩

end Machine

end Sys2Proof
end

section
/-!
The encoding (30_encoding.md R140 to R165): the decoder and the encoder are converses of each other, and a write of GCMD
runs the operation its word encodes.
-/

namespace Sys2Proof

open Config

variable {P : Params}

/-! ### The encoding of an instruction decodes to it -/

/-- The word of a well-formed command form has its reserved bits clear (30_encoding.md R143). -/
theorem cmdRsv_of_wellFormed {c : Chan P} {k : Nat} {fm : CmdForm} (h : (fm.instr c k).wellFormed = true) :
    cmdRsv fm.word = 0 := by
  have rsv {f : CmdFields} (hf : f.wellFormed k = true) : f.rsv = 0 :=
    of_decide_eq_true (Bool.and_eq_true_iff.1 hf).1
  cases fm <;> exact (cmdRsv_word ..).trans (rsv h)

theorem decode_encode_command {c : Chan P} {k : Nat} {fm : CmdForm} (h : (fm.instr c k).wellFormed = true) :
    decode (encode (fm.instr c k)) = .ok (fm.instr c k) := by
  rw [encode_instr, decode_command, if_pos (cmdRsv_of_wellFormed h), formOf_word]

theorem decode_encode_generator {op : BitVec 4} {dst srcA srcB : BitVec 8} {i : Instr P}
    (h : genInstr dst srcA srcB op.toNat = some i) : decode (encode i) = .ok i := by
  obtain ⟨ho, hr, hd, ha, hb⟩ := genWord_fields op dst srcA srcB
  rw [encode_genInstr h, decode_generator, ho, hr, hd, ha, hb, h]
  rfl

theorem decode_encode_wr (r : Reg P) (v : Word) : decode (encode (r.wr v)) = .ok (r.wr v) := by
  rw [encode_wr]
  exact decode_bus_ok.2 (decodeBus_wr r v)

theorem decode_encode_rd (r : Reg P) : decode (encode r.rd) = .ok r.rd := by
  rw [encode_rd]
  exact decode_bus_ok.2 (decodeBus_rd r)

/-- Settles O1: by the kind of the instruction. -/
theorem decodeEncodeAgree : Obligations.DecodeEncodeAgree := by
  intro P i h
  obtain ⟨c, k, fm, rfl⟩ | ⟨op, dst, srcA, srcB, hg⟩ | ⟨r, v, rfl⟩ | ⟨r, rfl⟩ := i.kinds
  · exact decode_encode_command h
  · exact decode_encode_generator hg
  · exact decode_encode_wr r v
  · exact decode_encode_rd r

/-! ### A word that decodes is the encoding of the result -/

theorem decode_command_ok {c : Chan P} {k : Nat} {w : Word} {i : Instr P} :
    decode (.command c k w) = .ok i ↔ cmdRsv w = 0 ∧ (formOf w).instr c k = i := by
  rw [decode_command]
  by_cases hr : cmdRsv w = 0
  · rw [if_pos hr, Except.ok.injEq, and_iff_right hr]
  · rw [if_neg hr]
    exact ⟨nofun, fun h => absurd h.1 hr⟩

theorem decode_generator_ok {v : Word} {i : Instr P} :
    decode (.generator v) = .ok i ↔
      genRsv v = 0 ∧ genInstr (genDst v) (genSrcA v) (genSrcB v) (genOp v).toNat = some i := by
  rw [decode_generator]
  by_cases hr : genRsv v = 0
  · rw [if_neg (not_not.2 hr), and_iff_right hr]
    cases genInstr (P := P) (genDst v) (genSrcA v) (genSrcB v) (genOp v).toNat <;> simp
  · rw [if_pos hr]
    exact ⟨nofun, fun h => absurd h.1 hr⟩

/-- Settles O2: by the kind of the encoding; the fields of a word put together again are the word, and a register is at
the address it decodes from. -/
theorem encodeOfDecodedIsTheWord : Obligations.EncodeOfDecodedIsTheWord := by
  intro P e i h
  cases e with
  | command c k w =>
    obtain ⟨-, rfl⟩ := decode_command_ok.1 h
    rw [encode_instr, word_formOf]
  | generator v =>
    obtain ⟨hr, hg⟩ := decode_generator_ok.1 h
    rw [encode_genInstr hg, genWord_of_fields v hr]
  | bus op =>
    obtain ⟨r, v, rfl, rfl⟩ | ⟨r, rfl, rfl⟩ := bus_of_decodeBus (decode_bus_ok.1 h)
    · exact encode_wr r v
    · exact encode_rd r

/-! ### Worked encodings -/

/-- The decoding of a word or an access by its encoding. -/
theorem decode_of_encode {e : Encoded P} {i : Instr P} (he : encode i = e) (hi : i.wellFormed = true) :
    decode e = .ok i := he ▸ decodeEncodeAgree P i hi

/-- Settles O3: each command word by its reserved bits and its form, each generator word and access by its encoding. -/
theorem workedEncodingsDecode : Obligations.WorkedEncodingsDecode := by
  refine ⟨fun c i => ?_, ?_⟩
  · have form {w : Word} {x : Instr} (hr : cmdRsv w = 0) (hf : (formOf w).instr c i = x) :
        decode (.command c i w) = .ok x := decode_command_ok.2 ⟨hr, hf⟩
    exact ⟨form rfl rfl, form rfl rfl, form rfl rfl, form rfl rfl, form rfl rfl, form rfl rfl, form rfl rfl,
      form rfl rfl, form rfl rfl, (decode_command ..).trans (if_neg (by decide))⟩
  · exact ⟨decode_of_encode rfl rfl, decode_of_encode rfl rfl, decode_of_encode rfl rfl, decode_of_encode rfl rfl,
      decode_of_encode rfl rfl, rfl, rfl,
      fun v => ⟨decode_of_encode rfl rfl, decode_of_encode rfl rfl, decode_of_encode rfl rfl,
        decode_of_encode rfl rfl⟩,
      decode_of_encode rfl rfl, decode_of_encode rfl rfl, rfl, rfl⟩

/-! ### Malformed generator words -/

theorem genOp_toNat (v : Word) : (genOp v).toNat = v.toNat % 16 := by
  simp [genOp, BitVec.extractLsb'_toNat]

theorem genRsv_eq_zero (v : Word) : genRsv v = 0 ↔ v.toNat / 16 % 16 = 0 := by
  rw [← BitVec.toNat_inj]
  simp [genRsv, BitVec.extractLsb'_toNat, Nat.shiftRight_eq_div_pow]

/-- The operation codes are 0 to 7 (30_encoding.md R161). -/
theorem genInstr_isSome (dst srcA srcB : BitVec 8) (op : Nat) :
    (∃ i : Instr P, genInstr dst srcA srcB op = some i) ↔ op < 8 := by
  match op with
  | 0 | 1 | 2 | 3 | 4 | 5 | 6 | 7 => exact ⟨fun _ => by decide, fun _ => ⟨_, rfl⟩⟩
  | n + 8 => exact ⟨nofun, fun h => absurd h (by omega)⟩

/-- A generator word decodes if and only if it is not malformed (30_encoding.md R162). -/
theorem generator_decodes_iff (v : Word) :
    (∃ i : Instr P, decode (.generator v) = .ok i) ↔ v.toNat / 16 % 16 = 0 ∧ v.toNat % 16 < 8 := by
  simp only [decode_generator_ok, exists_and_left, genInstr_isSome, genOp_toNat, genRsv_eq_zero]

namespace Machine

/-- Every generator operation completes, accepted or refused (60_exceptions.md R421). -/
theorem exec_generator_next {v : Word} {i : Instr} (h : decode (.generator v) = .ok i) (s : State) :
    ∃ t, exec i s = .next t := by
  obtain ⟨op, dst, srcA, srcB, hg⟩ := genInstr_of_decode h
  exact (settles_generator hg).next s

/-- Settles O4: GCMD runs the word's operation, and a word decodes to one unless it is malformed. -/
theorem gcmdRunsTheWordWritten : Obligations.GcmdRunsTheWordWritten := by
  intro v s
  refine ⟨fun i hi => ?_, fun hm => ?_, fun hr ho => (generator_decodes_iff v).2 ⟨hr, ho⟩⟩
  · obtain ⟨t, ht⟩ := exec_generator_next hi s
    exact ⟨t, (runGenerator_of_decode hi s).trans ht, ht⟩
  · have hn : ¬ ∃ i : Instr, decode (.generator v) = .ok i := by
      rw [generator_decodes_iff]
      omega
    exact ⟨runGenerator_malformed (not_exists.1 hn) s, not_exists.1 hn⟩

end Machine

end Sys2Proof
end

section
/-!
The generator operations (40_wavetable_bank.md R200 to R211). Each shares `generate`: accepted, it writes every sample of
its slot; refused, it reports ERR_RANGE. What remains of an operation is its waveform: the closed form of a sample, and
that it fits the int16 it is stored in.
-/

namespace Sys2Proof.Machine

open Config

/-! ### The shared ending, as the statements say it -/

/-- A generator operation on a slot that is there, its arguments accepted, writes the samples that `wave` stores. -/
theorem generate_slotWritten {dst : BitVec 8} (hd : dst.toNat < NUM_SLOTS) {ok : Bool} (hok : ok = true)
    {wave : Fin WT_LEN → Sample} {g : Nat → Int} (hw : ∀ i : Fin WT_LEN, (wave i).toInt = g i.val) (s : State) :
    ∃ t, generate dst ok wave s = .next t ∧ SlotWritten dst s t g := by
  subst hok
  exact ⟨_, generate_ok hd wave s, slotWritten_of_wave hd hw s⟩

/-- A generator operation on a slot that is absent, or with an argument refused, reports ERR_RANGE. -/
theorem generate_refused {dst : BitVec 8} {ok : Bool} (h : NUM_SLOTS ≤ dst.toNat ∨ ok = false)
    (wave : Fin WT_LEN → Sample) (s : State) : generate dst ok wave s = .next { s with status := .range } := by
  rcases h with h | rfl
  · exact generate_bad_slot h ok wave s
  · exact generate_bad_args dst wave s

/-! ### The argument checks -/

theorem amplitudeOk_true {s : State} : amplitudeOk s = true ↔ s.garg1.toNat ≤ 32767 := decide_eq_true_iff

theorem amplitudeOk_false {s : State} : amplitudeOk s = false ↔ 32767 < s.garg1.toNat :=
  decide_eq_false_iff_not.trans not_le

/-- SINEADD and NOISEBURST check a count from 1 to `n`, then the amplitude. -/
theorem countOk_true {c n : Nat} {s : State} (h1 : 1 ≤ c) (h2 : c ≤ n) (ha : s.garg1.toNat ≤ 32767) :
    (decide (1 ≤ c ∧ c ≤ n) && amplitudeOk s) = true := by
  simp only [h1, h2, amplitudeOk_true.2 ha, and_self, decide_true, Bool.and_self]

theorem countOk_false {c n : Nat} {s : State} (h : c = 0 ∨ n < c ∨ 32767 < s.garg1.toNat) :
    (decide (1 ≤ c ∧ c ≤ n) && amplitudeOk s) = false := by
  rw [Bool.and_eq_false_iff, decide_eq_false_iff_not, amplitudeOk_false]
  omega

/-- A sample of at most an accepted amplitude fits its int16. -/
theorem toSample_of_amplitude {a : Nat} (ha : a ≤ 32767) {v : Int} (hv : -a ≤ v ∧ v ≤ a) : (toSample v).toInt = v :=
  toSample_toInt (by omega) (by omega)

/-! ### Square waves and silence -/

theorem toSample_squareAt {a : Nat} (ha : a ≤ 32767) (high i : Nat) :
    (toSample (squareAt high a i)).toInt = if i < high then (a : Int) else -a := by
  refine toSample_of_amplitude ha ?_
  unfold squareAt
  split <;> omega

/-- Settles O31: silence and the two square waves, each by its sample and its checks. -/
theorem silenceAndSquareWavesFillTheSlot : Obligations.SilenceAndSquareWavesFillTheSlot := by
  refine fun dst srcA srcB s => ⟨fun hd => ⟨?silence, fun ha => ⟨?half, ?quarter⟩⟩, fun hd => ?_, fun h => ?_⟩
  case silence => exact generate_slotWritten hd rfl (fun _ => rfl) s
  case half => exact generate_slotWritten hd (amplitudeOk_true.2 ha) (fun i => toSample_squareAt ha (WT_LEN / 2) i) s
  case quarter => exact generate_slotWritten hd (amplitudeOk_true.2 ha) (fun i => toSample_squareAt ha (WT_LEN / 4) i) s
  · exact generate_refused (.inl hd) _ s
  · have hr := h.imp_right amplitudeOk_false.2
    exact ⟨generate_refused hr _ s, generate_refused hr _ s⟩

/-! ### The triangle -/

/-- The ramp `r(k)` of a nonnegative amplitude: its numerator is not negative, so `tdiv` is the floor of the quotient. -/
theorem ramp_eq (a k : Nat) : tdiv ((a : Int) * k) 4096 = (a : Int) * k / 4096 :=
  Int.tdiv_eq_ediv_of_nonneg (by positivity)

theorem ramp_bounds {a k : Nat} (hk : k ≤ 4096) : 0 ≤ (a : Int) * k / 4096 ∧ (a : Int) * k / 4096 ≤ a := by
  have hle : (a : Int) * k ≤ a * 4096 := by exact_mod_cast Nat.mul_le_mul_left a hk
  exact ⟨by positivity, Int.ediv_le_of_le_mul (by decide) hle⟩

/-- The triangle on the LSG table, whose quarter is 4096 samples. -/
theorem triangleAt_eq (a i : Nat) :
    triangleAt lsg a i =
      if i < 4096 then (a : Int) * i / 4096
      else if i < 8192 then (a : Int) * (8192 - i : Nat) / 4096
      else if i < 12288 then -((a : Int) * (i - 8192 : Nat) / 4096)
      else -((a : Int) * (16384 - i : Nat) / 4096) := by
  simp only [← ramp_eq]
  rfl

/-- Each quadrant's sample is the ramp at a step up to 4096, up to sign. -/
theorem triangleAt_bounds (a : Nat) {i : Nat} (hi : i < 16384) :
    -a ≤ triangleAt lsg a i ∧ triangleAt lsg a i ≤ a := by
  rw [triangleAt_eq]
  split_ifs with h1 h2 h3
  · have := ramp_bounds (a := a) (k := i) (by omega)
    omega
  · have := ramp_bounds (a := a) (k := 8192 - i) (by omega)
    omega
  · have := ramp_bounds (a := a) (k := i - 8192) (by omega)
    omega
  · have := ramp_bounds (a := a) (k := 16384 - i) (by omega)
    omega

/-- The mirrored steps as differences of integers. -/
theorem triangleAt_quadrants (a : Nat) {i : Nat} (hi : i < 16384) :
    triangleAt lsg a i =
      if i < 4096 then (a : Int) * i / 4096
      else if i < 8192 then (a : Int) * (8192 - i) / 4096
      else if i < 12288 then -((a : Int) * (i - 8192) / 4096)
      else -((a : Int) * (16384 - i) / 4096) := by
  rw [triangleAt_eq]
  split_ifs with h1 h2 h3
  · rfl
  all_goals
    rw [Nat.cast_sub (by omega)]
    rfl

/-- Settles O32: the sample of each quadrant, and its checks. -/
theorem triangleMirrorsTheRampOverTheQuadrants : Obligations.TriangleMirrorsTheRampOverTheQuadrants := by
  refine fun dst srcA srcB s => ⟨fun hd ha => ?_, fun h => generate_refused (h.imp_right amplitudeOk_false.2) _ s⟩
  refine generate_slotWritten hd (amplitudeOk_true.2 ha) (fun i => ?_) s
  exact (toSample_of_amplitude ha (triangleAt_bounds _ i.isLt)).trans (triangleAt_quadrants _ i.isLt)

/-! ### The harmonics and the filter -/

/-- Settles O33: the model's sum over all harmonics is the sum over the first `N`. -/
theorem sineaddSumsTheHarmonics : Obligations.SineaddSumsTheHarmonics := by
  refine fun dst srcA srcB s => ⟨fun hd h1 h2 ha => ?_, fun h => generate_refused (h.imp_right countOk_false) _ s⟩
  refine generate_slotWritten hd (countOk_true h1 h2 ha) (fun i => ?_) s
  rw [toSample_clamp16, harmonicSum_eq h2]
  rfl

theorem slotBefore_eq {dst : BitVec 8} (hd : dst.toNat < NUM_SLOTS) (s : State) :
    slotBefore dst s = s.wt[Fin.ofNat NUM_SLOTS dst.toNat] := by
  have hk : Fin.ofNat NUM_SLOTS dst.toNat = ⟨dst.toNat, hd⟩ := Fin.ext (Nat.mod_eq_of_lt hd)
  simp only [slotBefore, indexBelow_lt hd, hk]

/-- Settles O36: the convolution reads the slot as it was before the operation. -/
theorem filterConvolvesTheSlot : Obligations.FilterConvolvesTheSlot := by
  refine fun dst srcA srcB s => ⟨fun hd => ?_, fun hd => generate_refused (.inl hd) _ s⟩
  refine generate_slotWritten hd rfl (fun i => ?_) s
  rw [toSample_clamp16, filterSum_eq, slotBefore_eq hd]

/-! ### The noise input -/

/-- The noise value at step `k` is `A` or `-A` by bit 0 of the generation register after `k + 1` steps. -/
theorem genNoise_eq (a : Int) {k : Nat} (hk : k < WT_LEN) :
    genNoise (genRegisters lsg) a k =
      if (lfsrStep^[k + 1] (BitVec.ofNat 15 NOISE_SEED)).getLsbD 0 = false then a else -a := by
  rw [genNoise, genRegisters_getD hk, noiseValue]
  cases (lfsrStep^[k + 1] (BitVec.ofNat LFSR_BITS NOISE_SEED)).getLsbD 0 <;> rfl

theorem genNoise_bounds (regs : Array (BitVec LFSR_BITS)) (a k : Nat) :
    -a ≤ genNoise (P := lsg) regs a k ∧ genNoise (P := lsg) regs a k ≤ a := by
  unfold genNoise noiseValue
  split <;> omega

/-- Settles O34: a block of `B` samples holds the noise value of its own step. -/
theorem noiseburstHoldsOneOutputPerBlock : Obligations.NoiseburstHoldsOneOutputPerBlock := by
  refine fun dst srcA srcB s => ⟨fun hd h1 h2 ha => ?_, fun h => generate_refused (h.imp_right countOk_false) _ s⟩
  refine generate_slotWritten hd (countOk_true h1 h2 ha) (fun i => ?_) s
  have hblock : i.val / s.garg0.toNat < WT_LEN := (Nat.div_le_self ..).trans_lt i.isLt
  exact (toSample_of_amplitude ha (genNoise_bounds _ _ _)).trans (genNoise_eq _ hblock)

/-! ### MIX -/

/-- A source of MIX is a slot or `NOISE_SEL`, and its number says which. -/
theorem genSel_legal {n : Nat} (h : n < NUM_SLOTS ∨ n = NOISE_SEL) :
    GenSel.ofNat lsg n = some (if n = NOISE_SEL then .noise else .slot (Fin.ofNat NUM_SLOTS n)) := by
  by_cases hn : n = NOISE_SEL
  · rw [if_pos hn, hn, genSel_noise]
  · have hv : (Fin.ofNat NUM_SLOTS n).val = n := Nat.mod_eq_of_lt (h.resolve_right hn)
    rw [if_neg hn, ← genSel_slot, hv]

theorem genSel_illegal {n : Nat} (h : ¬ (n < NUM_SLOTS ∨ n = NOISE_SEL)) : GenSel.ofNat lsg n = none := by
  obtain ⟨hs, hn⟩ := not_or.1 h
  exact genSel_none (not_lt.1 hs) hn

/-- Both inputs of MIX are samples: a slot's own, or the noise value of an accepted amplitude. -/
theorem mixInput_bounds (wt : Vector (Vector Sample WT_LEN) NUM_SLOTS) (src : GenSel lsg) {a : Nat} (ha : a ≤ 32767)
    {noise : Int} (hn : -a ≤ noise ∧ noise ≤ a) (i : Fin WT_LEN) :
    -32768 ≤ mixInput wt src noise i ∧ mixInput wt src noise i ≤ 32767 := by
  cases src with
  | noise =>
    simp only [mixInput]
    omega
  | slot k =>
    have hlo := BitVec.le_toInt wt[k][i]
    have hhi := BitVec.toInt_lt (x := wt[k][i])
    simp only [mixInput]
    omega

/-- The truncated half of the sum of two samples is a sample. -/
theorem toSample_average {x y : Int} (hx : -32768 ≤ x ∧ x ≤ 32767) (hy : -32768 ≤ y ∧ y ≤ 32767) :
    (toSample (tdiv (x + y) 2)).toInt = tdiv (x + y) 2 := by
  have hlo : tdiv (-65536) 2 ≤ tdiv (x + y) 2 := Int.tdiv_le_tdiv (by decide) (by omega)
  have hhi : tdiv (x + y) 2 ≤ tdiv 65534 2 := Int.tdiv_le_tdiv (by decide) (by omega)
  exact toSample_toInt hlo hhi

/-- MIX with both sources legal is a generator operation like the others. -/
theorem execGenMix_legal {dst srcA srcB : BitVec 8} {a b : GenSel lsg} (ha : GenSel.ofNat lsg srcA.toNat = some a)
    (hb : GenSel.ofNat lsg srcB.toNat = some b) (s : State) :
    execGenMix dst srcA srcB s = generate dst (amplitudeOk s)
      (fun i => toSample (tdiv (mixInput s.wt a (genNoise (genRegisters lsg) (amplitude s) i.val) i +
        mixInput s.wt b (genNoise (genRegisters lsg) (amplitude s) i.val) i) 2)) s := by
  simp only [execGenMix, ha, hb]

/-- MIX reports ERR_RANGE for an illegal source. -/
theorem execGenMix_illegal {dst srcA srcB : BitVec 8}
    (h : GenSel.ofNat lsg srcA.toNat = none ∨ GenSel.ofNat lsg srcB.toNat = none) (s : State) :
    execGenMix dst srcA srcB s = .next { s with status := .range } := by
  unfold execGenMix
  rcases h with h | h
  · rw [h]
    rfl
  · rw [h]
    cases GenSel.ofNat lsg srcA.toNat <;> rfl

/-- Settles O35: the two selected inputs are samples, and so is their truncated half. -/
theorem mixAveragesTwoInputs : Obligations.MixAveragesTwoInputs := by
  intro dst srcA srcB s input legal
  have source {src : BitVec 8} (i : Fin WT_LEN) :
      mixInput s.wt (if src.toNat = NOISE_SEL then .noise else .slot (Fin.ofNat NUM_SLOTS src.toNat))
        (genNoise (genRegisters lsg) (amplitude s) i.val) i = input src i.val := by
    have hi : Fin.ofNat WT_LEN i.val = i := Fin.ext (Nat.mod_eq_of_lt i.isLt)
    simp only [input, hi, ← genNoise_eq _ i.isLt]
    split <;> rfl
  refine ⟨fun hd hA hB ha => ?_, fun h => ?_⟩
  · have heq := execGenMix_legal (dst := dst) (genSel_legal hA) (genSel_legal hB) s
    rw [exec, heq]
    refine generate_slotWritten hd (amplitudeOk_true.2 ha) (fun i => ?_) s
    have fits (src : GenSel lsg) := mixInput_bounds s.wt src ha (genNoise_bounds (genRegisters lsg) _ i.val) i
    rw [← source, ← source]
    exact toSample_average (fits _) (fits _)
  · by_cases hl : legal srcA ∧ legal srcB
    · obtain ⟨hA, hB⟩ := hl
      rw [exec, execGenMix_legal (genSel_legal hA) (genSel_legal hB)]
      refine generate_refused ?_ _ s
      rw [amplitudeOk_false]
      tauto
    · exact execGenMix_illegal ((not_and_or.1 hl).imp genSel_illegal genSel_illegal) s

end Sys2Proof.Machine
end

section
/-!
Command words (41_command_apply.md R230 to R243): a bend lies between the base and the target frequency, and a word
applied writes the key state, the note volume, the pitch and the observer record of its form.
-/

namespace Sys2Proof.Machine

open Config

/-! ### The bend (41_command_apply.md R235) -/

/-- The frequency a bend of magnitude `mag` from `base` toward `tf` gives, an exact integer. -/
def bendBetween (base tf mag : Nat) : Int := base + tdiv (((tf : Int) - base) * mag) BEND_MAX

theorem bendBetween_bounds (base tf : Nat) {mag : Nat} (h : mag ≤ BEND_MAX) :
    (min base tf : Int) ≤ bendBetween base tf mag ∧ bendBetween base tf mag ≤ (max base tf : Int) := by
  have hm : (mag : Int) ≤ 63 := by exact_mod_cast h
  have hm0 : (0 : Int) ≤ mag := Int.natCast_nonneg mag
  suffices min 0 ((tf : Int) - base) ≤ tdiv (((tf : Int) - base) * mag) BEND_MAX ∧
      tdiv (((tf : Int) - base) * mag) BEND_MAX ≤ max 0 ((tf : Int) - base) by
    unfold bendBetween
    omega
  rcases le_total 0 ((tf : Int) - base) with hd | hd
  · rw [min_eq_left hd, max_eq_right hd]
    exact tdiv_bounds (by decide) ((zero_mul _).trans_le (mul_nonneg hd hm0)) (mul_le_mul_of_nonneg_left hm hd)
      le_rfl hd
  · rw [min_eq_right hd, max_eq_left hd]
    exact tdiv_bounds (by decide) (mul_le_mul_of_nonpos_left hm hd)
      ((mul_nonpos_of_nonpos_of_nonneg hd hm0).trans_eq (zero_mul _).symm) hd le_rfl

theorem bendBetween_full (base tf : Nat) : bendBetween base tf BEND_MAX = tf := by
  unfold bendBetween tdiv
  rw [Int.mul_tdiv_cancel _ (by decide)]
  omega

theorem bendBetween_zero (base tf : Nat) : bendBetween base tf 0 = base := by
  simp [bendBetween, tdiv]

theorem applyBend_off {f : CmdFields} (h : ¬ f.pbp = true) (ct : Vector Word NOTE_COUNT) (ch : Channel) :
    ch.applyBend ct f = ch := if_neg h

/-- A bend that is present stores the exact frequency in `bent`, and writes nothing else. -/
theorem applyBend_on {f : CmdFields} (h : f.pbp = true) (ct : Vector Word NOTE_COUNT) (ch : Channel) :
    ch.applyBend ct f = { ch with
      bent := BitVec.ofInt 32 (bendBetween ch.base.toNat (ch.freqOf ct (ch.bendTarget f).toNat) f.pbmag.toNat) } := by
  rw [← resolveNote_toNat]
  exact if_pos h

/-- The bent frequency is a uint32, since it lies between two of them. -/
theorem applyBend_bent {f : CmdFields} (h : f.pbp = true) (ct : Vector Word NOTE_COUNT) (ch : Channel) :
    ((ch.applyBend ct f).bent.toNat : Int) =
      bendBetween ch.base.toNat (ch.freqOf ct (ch.bendTarget f).toNat) f.pbmag.toNat := by
  have hb := bendBetween_bounds ch.base.toNat (ch.freqOf ct (ch.bendTarget f).toNat) (Nat.le_of_lt_succ f.pbmag.isLt)
  have hbase := ch.base.isLt
  have htf := (ch.resolveNote ct (ch.bendTarget f)).isLt
  rw [resolveNote_toNat] at htf
  rw [applyBend_on h, BitVec.toNat_ofInt]
  omega

/-- Settles O38: the bounds and both ends are those of the exact integer that `bent` stores. -/
theorem bendLiesBetweenBaseAndTarget : Obligations.BendLiesBetweenBaseAndTarget := by
  intro ct f ch h
  have hx := applyBend_bent h ct ch
  have hb := bendBetween_bounds ch.base.toNat (ch.freqOf ct (ch.bendTarget f).toNat) (Nat.le_of_lt_succ f.pbmag.isLt)
  rw [← hx, bendTarget_toNat] at hb
  rw [bendTarget_toNat] at hx
  refine ⟨by rw [applyBend_on h], hx, by omega, by omega, fun hm => ?_, fun hm => ?_⟩
  · rw [hm, bendBetween_full] at hx
    exact Int.ofNat_inj.1 hx
  · rw [hm, bendBetween_zero] at hx
    exact BitVec.eq_of_toNat_eq (Int.ofNat_inj.1 hx)

/-! ### What a command writes of its channel (41_command_apply.md R232 to R236) -/

theorem applyVolume_eq (f : CmdFields) (ch : Channel) :
    ch.applyVolume f = { ch with nvol := if f.volp then f.vol else ch.nvol } := by
  unfold Channel.applyVolume
  split <;> rfl

theorem applyNote_eq (ct : Vector Word NOTE_COUNT) (f : CmdFields) (ch : Channel) :
    ch.applyNote ct f = { ch with
      base := if f.note ≠ 0 then ch.resolveNote ct f.note else ch.base
      bent := if f.note ≠ 0 then ch.resolveNote ct f.note else ch.bent
      lastnote := if f.note ≠ 0 then f.note else ch.lastnote } := by
  unfold Channel.applyNote
  split <;> rfl

theorem applyBend_eq (ct : Vector Word NOTE_COUNT) (f : CmdFields) (ch : Channel) :
    ch.applyBend ct f = { ch with bent := (ch.applyBend ct f).bent } := by
  unfold Channel.applyBend
  split <;> rfl

/-- The bend finds the note volume and the note of its own word written, in the table the channel resolves notes in. -/
theorem applyParams_eq_applyBend (ct : Vector Word NOTE_COUNT) (f : CmdFields) (ch : Channel) :
    ch.applyParams ct f = Channel.applyBend ct f { ch with
      nvol := if f.volp then f.vol else ch.nvol
      base := if f.note ≠ 0 then ch.resolveNote ct f.note else ch.base
      bent := if f.note ≠ 0 then ch.resolveNote ct f.note else ch.bent
      lastnote := if f.note ≠ 0 then f.note else ch.lastnote } := by
  unfold Channel.applyParams
  rw [applyNote_eq, applyVolume_eq]
  rfl

/-- Steps 3 to 5 write what the statements say. -/
theorem commandChannel_applyParams (ct : Vector Word NOTE_COUNT) (f : CmdFields) (ch : Channel) :
    CommandChannel ct f ch.keycnt ch.phase ch (ch.applyParams ct f) := by
  have hbase : (ch.applyParams ct f).base = if f.note ≠ 0 then ch.resolveNote ct f.note else ch.base := by
    rw [applyParams_eq_applyBend, applyBend_eq]
  refine ⟨applyParams_eq ct f ch, ?_, ?_, ?_, ?_⟩
  · rw [applyParams_eq_applyBend, applyBend_eq]
  · rw [applyParams_eq_applyBend, applyBend_eq]
  · rw [hbase, apply_ite BitVec.toNat, resolveNote_toNat]
  · by_cases hp : f.pbp = true
    · rw [if_pos hp, applyParams_eq_applyBend, applyBend_bent hp, bendTarget_toNat, applyBend_eq]
      rfl
    · rw [if_neg hp, hbase, applyParams_eq_applyBend, applyBend_off hp, apply_ite BitVec.toNat]
      split <;> simp

/-! ### What a command leaves of the state (41_command_apply.md R237, R238) -/

/-- A word that decodes to a form is the word of that form: the observer records the word applied. -/
theorem word_of_decode_command {c : Chan} {i : Nat} {w : Word} {fm : CmdForm}
    (h : decode (.command c i w) = .ok (fm.instr c i)) : fm.word = w := by
  have he := encodeOfDecodedIsTheWord lsg _ _ h
  rw [encode_instr] at he
  injection he

/-- A word whose enable bit is set replaces its channel and adds the observer's record. -/
theorem commandApplied_of_enabled (c : Chan) (i : Nat) {fm : CmdForm} (hen : cmdEn fm.word = true) (s : State) :
    ∃ t, exec (fm.instr c i) s = .next t ∧
      CommandApplied c i fm.word s t ((s.ch c).applied s.ct fm.word) := by
  refine ⟨_, exec_command_eq c i fm s, ?_, ch_setCh_same s c _, fun d hd => ch_setCh_ne s hd _⟩
  rw [Channel.record, hen, Bool.true_and]
  rfl

/-- The whole effect of an enabled command word, from what its form does to the channel. -/
theorem command_effect {c : Chan} {i : Nat} {w : Word} {fm : CmdForm} {f : CmdFields} {keycnt : Word} {phase : Phase}
    {s : State} (hen : cmdEn fm.word = true)
    (hch : CommandChannel s.ct f keycnt phase (s.ch c) ((s.ch c).applied s.ct fm.word))
    (hd : decode (.command c i w) = .ok (fm.instr c i)) :
    ∃ t x, exec (fm.instr c i) s = .next t ∧ CommandApplied c i w s t x ∧
      CommandChannel s.ct f keycnt phase (s.ch c) x := by
  obtain rfl := word_of_decode_command hd
  obtain ⟨t, ht, ha⟩ := commandApplied_of_enabled c i hen s
  exact ⟨t, _, ht, ha, hch⟩

/-- Settles O37: by the form of the word. Steps 3 to 5 are the same for the three enabled forms; they start from the
channel keyed on, keyed off, or as it is. -/
theorem commandWordsUpdateKeyAndPitch : Obligations.CommandWordsUpdateKeyAndPitch := by
  intro c i w f s
  refine ⟨fun _ _ _ => rfl, command_effect (fm := .keyon f) (cmdEn_word ..) ?_,
    command_effect (fm := .keyoff f) (cmdEn_word ..) ?_,
    fun kon => command_effect (fm := .param kon f) (cmdEn_word ..) ?_⟩ <;> rw [Channel.applied, formOf_word]
  · exact commandChannel_applyParams s.ct f (s.ch c).keyOn
  · exact commandChannel_applyParams s.ct f (s.ch c).keyOff
  · exact commandChannel_applyParams s.ct f (s.ch c)

end Sys2Proof.Machine
end

section
/-!
The envelope of a channel and its system-volume fade (42_envelope.md R250 to R259), and the three registers that reach
them without a check (47_host_ops.md R388, R392, R393).
-/

namespace Sys2Proof.Machine

open Config

/-! ### What each phase of the envelope does -/

section Phases

variable {ch : Channel}

theorem stepEnvelope_attack (h : ch.phase = .attack) : ch.stepEnvelope = ch.attackStep := by
  simp only [Channel.stepEnvelope, h]

theorem stepEnvelope_decay (h : ch.phase = .decay) : ch.stepEnvelope = ch.decayStep := by
  simp only [Channel.stepEnvelope, h]

theorem stepEnvelope_held (h : ch.phase = .sr) (hk : 0 ≤ ch.keycnt.toInt) : ch.stepEnvelope = ch.heldStep := by
  simp only [Channel.stepEnvelope, h, hk, if_true]

theorem stepEnvelope_released (h : ch.phase = .sr) (hk : ch.keycnt.toInt < 0) :
    ch.stepEnvelope = ch.releasedStep := by
  simp only [Channel.stepEnvelope, h, Int.not_le.2 hk, if_false]

/-- With the key off, Attack and Decay go to Sustain/Release (42_envelope.md R251, R252). -/
theorem stepEnvelope_keyOff (hp : ch.phase ≠ .sr) (hk : ch.keycnt.toInt = -1) :
    ch.stepEnvelope = { ch with phase := .sr } := by
  have hoff : ch.keyIsOff = true := (keyIsOff_iff ch).2 hk
  cases h : ch.phase with
  | attack => rw [stepEnvelope_attack h, Channel.attackStep, if_pos hoff]
  | decay => rw [stepEnvelope_decay h, Channel.decayStep, if_pos hoff]
  | sr => exact absurd h hp

/-- The attack reaches full scale (42_envelope.md R251). -/
theorem attackStep_full (hk : ch.keycnt.toInt ≠ -1) (hg : GAIN_MAX ≤ ch.gain.toNat + ch.atk.toNat) :
    ch.attackStep = { ch with gain := BitVec.ofNat 16 GAIN_MAX, phase := .decay } := by
  rw [Channel.attackStep, if_neg (mt (keyIsOff_iff ch).1 hk)]
  exact if_pos hg

/-- The attack below full scale (42_envelope.md R251). -/
theorem attackStep_rise (hk : ch.keycnt.toInt ≠ -1) (hg : ch.gain.toNat + ch.atk.toNat < GAIN_MAX) :
    ch.attackStep = { ch with gain := BitVec.ofNat 16 (ch.gain.toNat + ch.atk.toNat) } := by
  rw [Channel.attackStep, if_neg (mt (keyIsOff_iff ch).1 hk)]
  exact if_neg (Nat.not_le.2 hg)

/-- The decay falls to the sustain level at most and ends there (42_envelope.md R252). -/
theorem decayStep_keyOn (hk : ch.keycnt.toInt ≠ -1) :
    ∃ g : BitVec 16, (g.toNat : Int) = max ((ch.gain.toNat : Int) - ch.dec.toNat) ch.sus.toNat ∧
      (g = ch.sus → ch.decayStep = { ch with gain := g, phase := .sr, keycnt := 1 }) ∧
      (g ≠ ch.sus → ch.decayStep = { ch with gain := g }) := by
  have hgain := ch.gain.isLt
  have hsus := ch.sus.isLt
  have hg := ofInt16_toNat (n := max ((ch.gain.toNat : Int) - ch.dec.toNat) ch.sus.toNat) (by omega) (by omega)
  refine ⟨_, hg, fun he => ?_, fun hne => ?_⟩ <;> rw [Channel.decayStep, if_neg (mt (keyIsOff_iff ch).1 hk)]
  · exact if_pos (hg.symm.trans (by rw [he]))
  · exact if_neg fun h => hne (BitVec.eq_of_toNat_eq (Int.ofNat_inj.1 (hg.trans h)))

/-- The held fade below zero snaps to the floor and releases the key (42_envelope.md R253). -/
theorem heldStep_snap (hv : (ch.sus.toNat : Int) - ch.keycnt.toInt * ch.fade.toNat < 0) :
    ch.heldStep = { ch with gain := BitVec.ofNat 16 GAIN_SNAP_FLOOR, keycnt := BitVec.ofInt 32 (-1) } := if_pos hv

/-- The held fade from zero up stores its exact value and counts one, saturating (42_envelope.md R253). -/
theorem heldStep_fade (hk : 0 ≤ ch.keycnt.toInt) (hv : 0 ≤ (ch.sus.toNat : Int) - ch.keycnt.toInt * ch.fade.toNat) :
    ∃ (g : BitVec 16) (k : Word), ch.heldStep = { ch with gain := g, keycnt := k } ∧
      (g.toNat : Int) = ch.sus.toNat - ch.keycnt.toInt * ch.fade.toNat ∧
      k.toInt = min (ch.keycnt.toInt + 1) (2 ^ 31 - 1) := by
  have hsus := ch.sus.isLt
  have hfade : 0 ≤ ch.keycnt.toInt * ch.fade.toNat := Int.mul_nonneg hk (Int.natCast_nonneg _)
  refine ⟨_, _, if_neg (Int.not_lt.2 hv), ofInt16_toNat hv (by omega), ?_⟩
  rw [BitVec.toInt_ofInt, Int.bmod_eq_of_le] <;> omega

/-- The release writes the gain alone (42_envelope.md R254). -/
theorem releasedStep_eq (ch : Channel) : ch.releasedStep = { ch with gain := ch.releasedStep.gain } := by
  unfold Channel.releasedStep
  split
  · split <;> rfl
  · rfl

/-- The release falls by the decay rate above the sustain level and by the release rate else (42_envelope.md R254). -/
theorem releasedStep_gain (ch : Channel) :
    ch.releasedStep.gain.toNat =
      if ch.sus.toNat < ch.gain.toNat then ch.gain.toNat - ch.dec.toNat else ch.gain.toNat - ch.rel.toNat := by
  have hgain := ch.gain.isLt
  have fall (r : Nat) : (BitVec.ofInt 16 (max ((ch.gain.toNat : Int) - r) 0)).toNat = ch.gain.toNat - r := by
    have := ofInt16_toNat (n := max ((ch.gain.toNat : Int) - r) 0) (by omega) (by omega)
    omega
  unfold Channel.releasedStep
  split
  · split
    · exact fall _
    · exact fall _
  · split <;> omega

theorem releasedStep_gain_le (ch : Channel) : ch.releasedStep.gain.toNat ≤ ch.gain.toNat := by
  rw [releasedStep_gain]
  split <;> omega

end Phases

/-- Settles O39: each clause is what the step of its phase does. -/
theorem attackAndDecaySteps : Obligations.AttackAndDecaySteps := by
  refine fun ch => ⟨stepEnvelope_keyOff, fun hp hk => ?_, fun hp hk => ?_⟩
  · rw [stepEnvelope_attack hp]
    exact ⟨attackStep_full hk, attackStep_rise hk⟩
  · rw [stepEnvelope_decay hp]
    exact decayStep_keyOn hk

/-- Settles O40: the held step with a counter from 0 up, the released one with the counter -1. -/
theorem sustainAndReleaseSteps : Obligations.SustainAndReleaseSteps := by
  refine fun ch hp => ⟨fun hk => ?_, fun hk => ?_⟩
  · rw [stepEnvelope_held hp hk]
    exact ⟨heldStep_snap, heldStep_fade hk⟩
  · rw [stepEnvelope_released hp (by omega)]
    exact ⟨_, releasedStep_eq ch, releasedStep_gain ch⟩

/-! ### What an envelope step can do (42_envelope.md R255, R256) -/

/-- Channel `x` is what an envelope step can make of `ch`: one of the three phase changes, or a new gain and key
counter with the gain in range, or at most the larger of the old gain and the sustain level. -/
inductive Channel.EnvelopeMoves (ch : Channel) : Channel → Prop
  | keyOff (hp : ch.phase ≠ .sr) (hk : ch.keycnt.toInt = -1) : EnvelopeMoves ch { ch with phase := .sr }
  | full (hp : ch.phase = .attack) :
      EnvelopeMoves ch { ch with gain := BitVec.ofNat 16 GAIN_MAX, phase := .decay }
  | sustain (hp : ch.phase = .decay) : EnvelopeMoves ch { ch with gain := ch.sus, phase := .sr, keycnt := 1 }
  | level (g : BitVec 16) (k : Word) (hg : g.toNat ≤ GAIN_MAX ∨ g.toNat ≤ max ch.gain.toNat ch.sus.toNat) :
      EnvelopeMoves ch { ch with gain := g, keycnt := k }

theorem envelopeMoves_attackStep {ch : Channel} (hp : ch.phase = .attack) (hk : ch.keycnt.toInt ≠ -1) :
    ch.EnvelopeMoves ch.attackStep := by
  by_cases hg : GAIN_MAX ≤ ch.gain.toNat + ch.atk.toNat
  · rw [attackStep_full hk hg]
    exact .full hp
  · have hlt := Nat.not_le.1 hg
    rw [attackStep_rise hk hlt]
    exact .level _ ch.keycnt (.inl ((Nat.mod_le _ _).trans hlt.le))

theorem envelopeMoves_decayStep {ch : Channel} (hp : ch.phase = .decay) (hk : ch.keycnt.toInt ≠ -1) :
    ch.EnvelopeMoves ch.decayStep := by
  obtain ⟨g, hg, hsus, hfall⟩ := decayStep_keyOn hk
  by_cases he : g = ch.sus
  · rw [hsus he, he]
    exact .sustain hp
  · rw [hfall he]
    exact .level g ch.keycnt (.inr (by omega))

theorem envelopeMoves_heldStep {ch : Channel} (hk : 0 ≤ ch.keycnt.toInt) : ch.EnvelopeMoves ch.heldStep := by
  have hfade : 0 ≤ ch.keycnt.toInt * ch.fade.toNat := Int.mul_nonneg hk (Int.natCast_nonneg _)
  rcases lt_or_ge ((ch.sus.toNat : Int) - ch.keycnt.toInt * ch.fade.toNat) 0 with hv | hv
  · rw [heldStep_snap hv]
    exact .level _ _ (.inl (by decide))
  · obtain ⟨g, k, he, hg, -⟩ := heldStep_fade hk hv
    rw [he]
    exact .level g k (.inr (by omega))

theorem envelopeMoves_releasedStep (ch : Channel) : ch.EnvelopeMoves ch.releasedStep := by
  rw [releasedStep_eq]
  exact .level _ ch.keycnt (.inr (le_max_of_le_left (releasedStep_gain_le ch)))

/-- Everything an envelope step can do. -/
theorem envelopeMoves_stepEnvelope (ch : Channel) : ch.EnvelopeMoves ch.stepEnvelope := by
  by_cases hoff : ch.phase ≠ .sr ∧ ch.keycnt.toInt = -1
  · obtain ⟨hp, hk⟩ := hoff
    exact stepEnvelope_keyOff hp hk ▸ .keyOff hp hk
  · have hon : ch.phase ≠ .sr → ch.keycnt.toInt ≠ -1 := not_and.1 hoff
    cases hp : ch.phase with
    | attack => exact stepEnvelope_attack hp ▸ envelopeMoves_attackStep hp (hon (by simp [hp]))
    | decay => exact stepEnvelope_decay hp ▸ envelopeMoves_decayStep hp (hon (by simp [hp]))
    | sr =>
      rcases lt_or_ge ch.keycnt.toInt 0 with hk | hk
      · exact stepEnvelope_released hp hk ▸ envelopeMoves_releasedStep ch
      · exact stepEnvelope_held hp hk ▸ envelopeMoves_heldStep hk

theorem Channel.EnvelopeMoves.gain_le {ch x : Channel} (h : ch.EnvelopeMoves x) (hg : ch.gain.toNat ≤ GAIN_MAX)
    (hs : ch.sus.toNat ≤ GAIN_MAX) : x.gain.toNat ≤ GAIN_MAX := by
  cases h with
  | keyOff => exact hg
  | full => exact le_refl GAIN_MAX
  | sustain => exact hs
  | level g k h => exact h.elim id fun h => h.trans (max_le hg hs)

theorem Channel.EnvelopeMoves.phase_cases {ch x : Channel} (h : ch.EnvelopeMoves x) :
    x.phase = ch.phase ∨
      (ch.phase = .attack ∧ x.phase = .decay ∧ x.gain.toNat = GAIN_MAX) ∨
      (ch.phase = .decay ∧ x.phase = .sr ∧ x.gain = ch.sus) ∨
      (ch.phase ≠ .sr ∧ x.phase = .sr ∧ ch.keycnt.toInt = -1) := by
  cases h with
  | keyOff hp hk => exact .inr (.inr (.inr ⟨hp, rfl, hk⟩))
  | full hp => exact .inr (.inl ⟨hp, rfl, rfl⟩)
  | sustain hp => exact .inr (.inr (.inl ⟨hp, rfl, rfl⟩))
  | level => exact .inl rfl

/-- Settles O41: by what an envelope step can do. -/
theorem envelopeBoundsGainAndPhaseChanges : Obligations.EnvelopeBoundsGainAndPhaseChanges :=
  fun ch => ⟨stepEnvelope_eq ch, (envelopeMoves_stepEnvelope ch).gain_le, (envelopeMoves_stepEnvelope ch).phase_cases⟩

/-! ### Release (42_envelope.md R254, R258) -/

/-- With the key off an envelope step ends in Sustain/Release and writes gain and phase alone. -/
theorem stepEnvelope_off_eq {ch : Channel} (hk : ch.keycnt.toInt = -1) :
    ch.stepEnvelope = { ch with gain := ch.stepEnvelope.gain, phase := .sr } := by
  by_cases hp : ch.phase = .sr
  · rw [stepEnvelope_released hp (by omega), ← hp]
    exact releasedStep_eq ch
  · rw [stepEnvelope_keyOff hp hk]

theorem stepEnvelope_off_gain_le {ch : Channel} (hk : ch.keycnt.toInt = -1) :
    ch.stepEnvelope.gain.toNat ≤ ch.gain.toNat := by
  by_cases hp : ch.phase = .sr
  · rw [stepEnvelope_released hp (by omega)]
    exact releasedStep_gain_le ch
  · rw [stepEnvelope_keyOff hp hk]

/-- No envelope step turns the key on. -/
theorem stepEnvelope_iterate_off {ch : Channel} (hk : ch.keycnt.toInt = -1) (n : Nat) :
    (Channel.stepEnvelope^[n] ch).keycnt.toInt = -1 := by
  induction n with
  | zero => exact hk
  | succ n ih => rw [Function.iterate_succ_apply', stepEnvelope_off_eq ih, ih]

/-- The key is off and the rates bring the gain down: R258's condition on the rates. -/
structure Channel.FallsSilent (ch : Channel) : Prop where
  key_off : ch.keycnt.toInt = -1
  rel_pos : 0 < ch.rel.toNat
  dec_pos_or_le : 0 < ch.dec.toNat ∨ ch.gain.toNat ≤ ch.sus.toNat

theorem Channel.FallsSilent.stepEnvelope {ch : Channel} (h : ch.FallsSilent) : ch.stepEnvelope.FallsSilent := by
  have hle := stepEnvelope_off_gain_le h.key_off
  rw [stepEnvelope_off_eq h.key_off]
  exact ⟨h.key_off, h.rel_pos, h.dec_pos_or_le.imp_right hle.trans⟩

theorem Channel.FallsSilent.iterate {ch : Channel} (h : ch.FallsSilent) (n : Nat) :
    (Channel.stepEnvelope^[n] ch).FallsSilent :=
  Function.Iterate.rec Channel.FallsSilent h (fun _ => Channel.FallsSilent.stepEnvelope) n

/-- In Sustain/Release each step takes at least one unit off the gain. -/
theorem Channel.FallsSilent.gain_falls {ch : Channel} (h : ch.FallsSilent) (hp : ch.phase = .sr) :
    ch.stepEnvelope.gain.toNat ≤ ch.gain.toNat - 1 := by
  obtain ⟨hk, hrel, hdec⟩ := h
  rw [stepEnvelope_released hp (by omega), releasedStep_gain]
  split <;> omega

/-- The first step may only end the phase; each later one takes at least one unit off the gain. -/
theorem Channel.FallsSilent.gain_iterate_succ {ch : Channel} (h : ch.FallsSilent) (n : Nat) :
    (Channel.stepEnvelope^[n + 1] ch).gain.toNat ≤ ch.gain.toNat - n := by
  induction n with
  | zero => exact stepEnvelope_off_gain_le h.key_off
  | succ n ih =>
    have hsr : (Channel.stepEnvelope^[n + 1] ch).phase = .sr := by
      rw [Function.iterate_succ_apply', stepEnvelope_off_eq (h.iterate n).key_off]
    have hfall := (h.iterate (n + 1)).gain_falls hsr
    rw [Function.iterate_succ_apply']
    omega

/-- Settles O42: the key stays off, so no step raises the gain; under R258's condition it falls from the second step
on. -/
theorem releaseFallsToZero : Obligations.ReleaseFallsToZero := by
  refine fun ch hk => ⟨fun n => ?_, fun hrel hdec n hn => ?_⟩
  · rw [Function.iterate_succ_apply']
    exact stepEnvelope_off_gain_le (stepEnvelope_iterate_off hk n)
  · obtain ⟨m, rfl⟩ : ∃ m, n = m + 1 := ⟨n - 1, by omega⟩
    have hle := Channel.FallsSilent.gain_iterate_succ ⟨hk, hrel, hdec⟩ m
    omega

/-! ### The fade (42_envelope.md R259) -/

section Fade

variable {ch : Channel}

theorem fadeStep_below (h : ch.svol.toNat < ch.stgt.toNat) :
    ∃ v : BitVec 7, v.toNat = ch.svol.toNat + 1 ∧ ch.fadeStep = { ch with svol := v } :=
  ⟨ch.svol + 1, by bv_omega, if_pos h⟩

theorem fadeStep_above (h : ch.stgt.toNat < ch.svol.toNat) :
    ∃ v : BitVec 7, v.toNat + 1 = ch.svol.toNat ∧ ch.fadeStep = { ch with svol := v } := by
  refine ⟨ch.svol - 1, by bv_omega, ?_⟩
  rw [Channel.fadeStep, if_neg (by omega), if_pos h]

theorem fadeStep_at (h : ch.svol.toNat = ch.stgt.toNat) : ch.fadeStep = ch := by
  rw [Channel.fadeStep, if_neg (by omega), if_neg (by omega)]

theorem fadeStep_stgt (ch : Channel) : ch.fadeStep.stgt = ch.stgt := by rw [fadeStep_eq]

/-- A fade step brings the volume one unit nearer to the target: it is within `n` of it after the step iff it was
within `n + 1`. -/
theorem fadeStep_within (ch : Channel) (n : Nat) :
    (ch.fadeStep.svol.toNat ≤ ch.stgt.toNat + n ∧ ch.stgt.toNat ≤ ch.fadeStep.svol.toNat + n) ↔
      ch.svol.toNat ≤ ch.stgt.toNat + (n + 1) ∧ ch.stgt.toNat ≤ ch.svol.toNat + (n + 1) := by
  rcases lt_trichotomy ch.svol.toNat ch.stgt.toNat with h | h | h
  · obtain ⟨v, hv, he⟩ := fadeStep_below h
    simp only [he]
    omega
  · rw [fadeStep_at h]
    omega
  · obtain ⟨v, hv, he⟩ := fadeStep_above h
    simp only [he]
    omega

end Fade

/-- The target is reached after exactly the distance. -/
theorem fadeStep_iterate_reaches (n : Nat) (ch : Channel) :
    (Channel.fadeStep^[n] ch).svol = ch.stgt ↔
      ch.svol.toNat ≤ ch.stgt.toNat + n ∧ ch.stgt.toNat ≤ ch.svol.toNat + n := by
  induction n generalizing ch with
  | zero => rw [Function.iterate_zero_apply, ← BitVec.toNat_inj, Nat.add_zero, Nat.add_zero, Nat.le_antisymm_iff]
  | succ n ih =>
    have h := ih ch.fadeStep
    rw [fadeStep_stgt] at h
    rw [Function.iterate_succ_apply, h, fadeStep_within]

/-- Settles O43: the three cases of a step, and an induction over the steps. -/
theorem fadeRampsToTheTarget : Obligations.FadeRampsToTheTarget :=
  fun ch => ⟨fadeStep_below, fadeStep_above, fadeStep_at, fun n => fadeStep_iterate_reaches n ch⟩

/-! ### Unchecked channel registers -/

/-- Settles O23: each write is an unchecked channel store, each read the answer of its field. -/
theorem detuneControlAndForcedNoteOff : Obligations.DetuneControlAndForcedNoteOff := by
  intro c v s
  refine ⟨?_, ?_, chStore_next c (fun ch => { ch with custom := v.getLsbD 0, obs := v.getLsbD 1 }) s, ?_,
    chStore_next c Channel.forceNoteOff s, rfl⟩
  · rw [BitVec.ofInt_toInt]
    exact chStore_next c (fun ch => { ch with detune := v }) s
  · rw [BitVec.ofInt_toInt]
    rfl
  · rw [← flagWord_eq]
    rfl

end Sys2Proof.Machine
end

section
/-!
The sample path of a channel, and the registers a render counts in: the phase step and the wrap of the position
(43_oscillator_gain.md R275, R276), the contribution of a channel and the mix (R280, R284, R285; 46_render.md R347,
R349), the noise register and the ring head over a run of frames (43_oscillator_gain.md R282, 44_ring.md R307).
-/

namespace Sys2Proof.Machine

open Config

/-! ### The phase step and the position (43_oscillator_gain.md R275, R276) -/

theorem rnd_pos {p q : Int} (hp : 0 < p) (hq : 0 < q) : rnd p q = (2 * p + q) / (2 * q) := by
  rw [rnd, Int.sign_eq_one_of_pos hp, one_mul, Int.natAbs_of_nonneg hp.le, Int.fdiv_eq_ediv_of_nonneg _ (by omega)]

theorem rnd_neg (p q : Int) : rnd (-p) q = -rnd p q := by
  rw [rnd, rnd, Int.sign_neg, Int.natAbs_neg, Int.neg_mul]

/-- The rounding of a positive quotient: within one half of it, and above it in a tie. -/
theorem rnd_pos_nearest {p q : Int} (hp : 0 < p) (hq : 0 < q) :
    2 * (rnd p q * q - p) ≤ q ∧ -q < 2 * (rnd p q * q - p) := by
  have hdiv := Int.mul_ediv_add_emod (2 * p + q) (2 * q)
  have hlo := Int.emod_nonneg (2 * p + q) (show 2 * q ≠ 0 by omega)
  have hhi := Int.emod_lt_of_pos (2 * p + q) (show 0 < 2 * q by omega)
  rw [← rnd_pos hp hq, Int.mul_assoc, Int.mul_comm q] at hdiv
  omega

/-- `rnd` is the nearest integer, ties away from zero (00_scope.md R9). -/
theorem rnd_nearest (p : Int) {q : Int} (hq : 0 < q) :
    2 * (rnd p q * q - p) ≤ q ∧ -q ≤ 2 * (rnd p q * q - p) ∧
    (2 * (rnd p q * q - p) = q → 0 < p) ∧ (2 * (rnd p q * q - p) = -q → p < 0) := by
  rcases lt_trichotomy p 0 with hp | rfl | hp
  · have h := rnd_pos_nearest (show 0 < -p by omega) hq
    rw [rnd_neg, Int.neg_mul] at h
    omega
  · have h : rnd 0 q * q = 0 := by rw [rnd, Int.sign_zero, Int.zero_mul, Int.zero_mul]
    omega
  · have h := rnd_pos_nearest hp hq
    omega

theorem indexMod_emod_val {n : Nat} (h : 0 < n) (x : Int) :
    ((indexMod h (emod x n).toNat).val : Int) = x % n := by
  rw [emod_eq x (by omega), indexMod, Int.natCast_mod, Int.toNat_of_nonneg (Int.emod_nonneg x (by omega)),
    Int.emod_emod]

/-- Settles O44: the step is `rnd`, and the new position is the Euclidean remainder of the old one plus the step. -/
theorem phaseStepIsNearestAndWraps : Obligations.PhaseStepIsNearestAndWraps := by
  intro ch p q e
  obtain ⟨hle, hge, htie, hntie⟩ := rnd_nearest p (show 0 < q by decide)
  exact ⟨hle, hge, htie, hntie, _, rfl, indexMod_emod_val lsg.wtLen_pos _⟩

/-! ### A truncating scaling by `k / d` -/

/-- One scaling of the sample path: the factor `k` of full scale `d`, truncated toward zero. -/
def scaleBy (k d : Nat) (x : Int) : Int := tdiv (x * k) d

theorem scaleBy_bounds {k d : Nat} {x lo hi : Int} (hd : 0 < d) (hk : k ≤ d) (hx : lo ≤ x ∧ x ≤ hi) (hlo : lo ≤ 0)
    (hhi : 0 ≤ hi) : lo ≤ scaleBy k d x ∧ scaleBy k d x ≤ hi := by
  have hk' : (k : Int) ≤ d := by exact_mod_cast hk
  refine tdiv_bounds (by omega) ?_ ?_ hlo hhi
  · calc lo * d ≤ lo * k := Int.mul_le_mul_of_nonpos_left hlo hk'
      _ ≤ x * k := Int.mul_le_mul_of_nonneg_right hx.1 (by omega)
  · calc x * k ≤ hi * k := Int.mul_le_mul_of_nonneg_right hx.2 (by omega)
      _ ≤ hi * d := Int.mul_le_mul_of_nonneg_left hk' hhi

theorem scaleBy_full {d : Nat} (hd : 0 < d) (x : Int) : scaleBy d d x = x := Int.mul_tdiv_cancel x (by omega)

@[simp] theorem scaleBy_none (d : Nat) (x : Int) : scaleBy 0 d x = 0 := by
  rw [scaleBy, Int.natCast_zero, Int.mul_zero, tdiv, Int.zero_tdiv]

@[simp] theorem scaleBy_zero (k d : Nat) : scaleBy k d 0 = 0 := by rw [scaleBy, Int.zero_mul, tdiv, Int.zero_tdiv]

/-! ### A channel's contribution (43_oscillator_gain.md R280, R284, R285) -/

section Contribution

variable {wt : Vector (Vector Sample WT_LEN) NUM_SLOTS} {ch : Channel}

theorem sample_slot {k : Fin NUM_SLOTS} (h : ch.gensel = .slot k) : ch.sample wt = (wt[k][ch.pos]).toInt := by
  simp only [Channel.sample, h]

theorem sample_noise (h : ch.gensel = .noise) :
    ch.sample wt = if ch.lfsr.getLsbD 0 = false then (NOISE_AMP : Int) else -NOISE_AMP := by
  simp only [Channel.sample, h, noiseValue]
  cases ch.lfsr.getLsbD 0 <;> rfl

theorem sample_bounds (wt : Vector (Vector Sample WT_LEN) NUM_SLOTS) (ch : Channel) :
    -32768 ≤ ch.sample wt ∧ ch.sample wt ≤ 32767 := by
  cases h : ch.gensel with
  | slot k =>
    rw [sample_slot h]
    have := BitVec.le_toInt (wt[k][ch.pos])
    have := BitVec.toInt_lt (x := wt[k][ch.pos])
    omega
  | noise =>
    rw [sample_noise h]
    split <;> decide

/-- The gain, the product of the two note volumes, the system volume: three scalings in this order. -/
theorem contrib_eq (wt : Vector (Vector Sample WT_LEN) NUM_SLOTS) (ch : Channel) :
    ch.contrib wt =
      scaleBy ch.svol.toNat 127
        (scaleBy (ch.nvol.toNat * ch.gvol.toNat) (127 * 127) (scaleBy ch.gain.toNat GAIN_MAX (ch.sample wt))) := by
  simp only [scaleBy, Int.natCast_mul, ← Int.mul_assoc]
  rfl

theorem volume_le (v : BitVec 7) : v.toNat ≤ 127 := Nat.le_of_lt_succ v.isLt

theorem gained_bounds (hg : ch.gain.toNat ≤ GAIN_MAX) :
    -32768 ≤ scaleBy ch.gain.toNat GAIN_MAX (ch.sample wt) ∧ scaleBy ch.gain.toNat GAIN_MAX (ch.sample wt) ≤ 32767 :=
  scaleBy_bounds (by decide) hg (sample_bounds wt ch) (by decide) (by decide)

theorem gained_natAbs_le (hg : ch.gain.toNat ≤ GAIN_MAX) :
    (scaleBy ch.gain.toNat GAIN_MAX (ch.sample wt)).natAbs ≤ 32768 := by
  have := gained_bounds (wt := wt) hg
  omega

theorem gain_product_bound (hg : ch.gain.toNat ≤ GAIN_MAX) : (ch.sample wt * ch.gain.toNat).natAbs ≤ 2 ^ 30 := by
  have hx : (ch.sample wt).natAbs ≤ 32768 := by
    have := sample_bounds wt ch
    omega
  calc (ch.sample wt * ch.gain.toNat).natAbs = (ch.sample wt).natAbs * ch.gain.toNat := Int.natAbs_mul ..
    _ ≤ 32768 * GAIN_MAX := Nat.mul_le_mul hx hg
    _ = 2 ^ 30 := rfl

theorem contrib_bounds (hg : ch.gain.toNat ≤ GAIN_MAX) : -32768 ≤ ch.contrib wt ∧ ch.contrib wt ≤ 32767 := by
  have hvol : ch.nvol.toNat * ch.gvol.toNat ≤ 127 * 127 := Nat.mul_le_mul (volume_le _) (volume_le _)
  have h2 := scaleBy_bounds (by decide) hvol (gained_bounds (wt := wt) hg) (by decide) (by decide)
  rw [contrib_eq]
  exact scaleBy_bounds (by decide) (volume_le _) h2 (by decide) (by decide)

theorem contrib_full (hg : ch.gain.toNat = GAIN_MAX) (hn : ch.nvol.toNat = 127) (hv : ch.gvol.toNat = 127)
    (hs : ch.svol.toNat = 127) : ch.contrib wt = ch.sample wt := by
  rw [contrib_eq, hg, hn, hv, hs, scaleBy_full (by decide), scaleBy_full (by decide), scaleBy_full (by decide)]

theorem contrib_silent (h : ch.gain.toNat = 0 ∨ ch.nvol.toNat = 0 ∨ ch.gvol.toNat = 0 ∨ ch.svol.toNat = 0) :
    ch.contrib wt = 0 := by
  rw [contrib_eq]
  rcases h with h | h | h | h <;> simp [h]

end Contribution

/-! ### The mix (46_render.md R347, R349) -/

theorem mix_bounds {s : State} (h : ∀ c : Chan, (s.ch c).gain.toNat ≤ GAIN_MAX) :
    -(NUM_CH * 32768) ≤ mix s ∧ mix s ≤ NUM_CH * 32768 := by
  have hlo := Finset.card_nsmul_le_sum Finset.univ (fun c : Chan => (s.ch c).contrib s.wt) (-32768)
    fun c _ => (contrib_bounds (h c)).1
  have hhi := Finset.sum_le_card_nsmul Finset.univ (fun c : Chan => (s.ch c).contrib s.wt) 32767
    fun c _ => (contrib_bounds (h c)).2
  rw [Finset.card_univ, Fintype.card_fin, nsmul_eq_mul, ← mix_eq] at hlo hhi
  simp only [NUM_CH, lsg] at hlo hhi ⊢
  omega

/-- Settles O46: three scalings, each with its bounds, its full scale and its zero; the mix is the sum of numbers so
bounded. -/
theorem contributionsAndMixStayInRange : Obligations.ContributionsAndMixStayInRange := by
  refine ⟨fun wt ch => ⟨rfl, ?_, fun hg => ⟨gained_natAbs_le hg, gain_product_bound hg⟩, fun hg => ?_, fun hg => ?_,
    contrib_bounds, contrib_full, contrib_silent⟩, fun s hg => ?_⟩
  · cases h : ch.gensel with
    | slot k => exact sample_slot h
    | noise => exact sample_noise h
  · rw [hg]
    exact scaleBy_full (by decide) _
  · rw [hg]
    exact scaleBy_none _ _
  · obtain ⟨hlo, hhi⟩ := mix_bounds hg
    refine ⟨hlo, hhi, mix_eq s, ?_⟩
    rw [toSample_clamp16, clamp]
    omega

/-! ### Noise register and head over a run of frames (43_oscillator_gain.md R282, 44_ring.md R307) -/

theorem stepNoise_lfsr (ch : Channel) :
    ch.stepNoise.lfsr = if ch.gensel = .noise then lfsrStep ch.lfsr else ch.lfsr := by
  unfold Channel.stepNoise
  split
  · next h => rw [if_pos h]
  · next h => rw [if_neg (by rw [h]; nofun)]

theorem frameStep_lfsr (ch : Channel) :
    ch.frameStep.lfsr = if ch.gensel = .noise then lfsrStep ch.lfsr else ch.lfsr := by
  rw [Channel.frameStep, stepNoise_lfsr, Channel.advancePhase, stepEnvelope_eq]

/-- The consumption step writes neither the generator binding nor the noise register, and takes the head on by one. -/
theorem consumed_oscillator (ct : Vector Word NOTE_COUNT) (ch : Channel) :
    (ch.consumed ct).gensel = ch.gensel ∧ (ch.consumed ct).lfsr = ch.lfsr ∧
    (ch.consumed ct).head.val = (ch.head.val + 1) % RING_CAP := by
  rw [Channel.consumed, fadeStep_eq, applied_eq]
  exact ⟨rfl, rfl, consume_head ch⟩

theorem framed_gensel (ct : Vector Word NOTE_COUNT) (tick : Word) (ch : Channel) :
    (ch.framed ct tick).gensel = ch.gensel := by
  rw [Channel.framed, frameStep_eq]
  split
  · exact (consumed_oscillator ct ch).1
  · rfl

theorem framed_lfsr (ct : Vector Word NOTE_COUNT) (tick : Word) (ch : Channel) :
    (ch.framed ct tick).lfsr = if ch.gensel = .noise then lfsrStep ch.lfsr else ch.lfsr := by
  obtain ⟨hg, hl, -⟩ := consumed_oscillator ct ch
  rw [Channel.framed, frameStep_lfsr]
  split
  · rw [hg, hl]
  · rfl

theorem framed_head (ct : Vector Word NOTE_COUNT) (tick : Word) (ch : Channel) :
    (ch.framed ct tick).head.val = (ch.head.val + if tick.toNat % FI = 0 then 1 else 0) % RING_CAP := by
  rw [Channel.framed, frameStep_eq]
  split
  · exact (consumed_oscillator ct ch).2.2
  · exact (Nat.mod_eq_of_lt ch.head.isLt).symm

/-- The frame after `n` frames takes each channel on at the tick they have reached. -/
theorem ch_renderFrames_last (n i : Nat) (s : State) (c : Chan) :
    (renderFrames (n + 1) i s).ch c = ((renderFrames n i s).ch c).framed s.ct (s.tick + BitVec.ofNat 32 n) := by
  rw [renderFrames_last, ch_renderFrame, renderFrames_tick]
  congr 1
  rw [renderFrames_eq]

theorem renderFrames_gensel (n i : Nat) (s : State) (c : Chan) :
    ((renderFrames n i s).ch c).gensel = (s.ch c).gensel := by
  induction n with
  | zero => rfl
  | succ n ih => rw [ch_renderFrames_last, framed_gensel, ih]

/-- A noise channel steps its register once per frame, no other channel steps its own (43_oscillator_gain.md R282). -/
theorem renderFrames_lfsr (n i : Nat) (s : State) (c : Chan) :
    ((renderFrames n i s).ch c).lfsr =
      if (s.ch c).gensel = .noise then lfsrStep^[n] (s.ch c).lfsr else (s.ch c).lfsr := by
  induction n with
  | zero => exact (ite_self _).symm
  | succ n ih =>
    rw [ch_renderFrames_last, framed_lfsr, renderFrames_gensel, ih, Function.iterate_succ_apply']
    split_ifs <;> rfl

theorem consumptionsIn_succ (s : State) (n : Nat) :
    s.consumptionsIn (n + 1) =
      s.consumptionsIn n + if (s.tick + BitVec.ofNat 32 n).toNat % FI = 0 then 1 else 0 := by
  have ht : (s.tick + BitVec.ofNat 32 n).toNat = (s.tick.toNat + n) % 2 ^ 32 := by
    rw [BitVec.toNat_add, BitVec.toNat_ofNat, Nat.add_mod_mod]
  simp only [State.consumptionsIn, ← List.countP_eq_length_filter, List.range_succ, List.countP_append,
    List.countP_singleton, decide_eq_true_eq, ht]

/-- Every head advances once per consumption tick (44_ring.md R307). -/
theorem renderFrames_head (n i : Nat) (s : State) (c : Chan) :
    ((renderFrames n i s).ch c).head.val = ((s.ch c).head.val + s.consumptionsIn n) % RING_CAP := by
  induction n with
  | zero => exact (Nat.mod_eq_of_lt (s.ch c).head.isLt).symm
  | succ n ih => rw [ch_renderFrames_last, framed_head, ih, consumptionsIn_succ, Nat.mod_add_mod, Nat.add_assoc]

/-- An accepted render without pause is its fill and its frames (46_render.md R344 to R352). -/
theorem exec_wrRgo_running (v : Word) {s : State} (ha : s.renderAccepted) (hp : s.pause = false) :
    exec (.wrRgo v) s = .next (done (renderFrames s.rcount.toNat 0 (fillAll s))) := by
  obtain ⟨h, -⟩ | ⟨h, -⟩ | ⟨-, h, -⟩ | ⟨-, -, e⟩ := render_cases s
  · exact absurd h ha.1
  · exact absurd ha h
  · exact absurd (hp.symm.trans h) Bool.false_ne_true
  · exact e

/-- Settles O56: by the run of frames, the fill before it writing neither register. -/
theorem renderCountsFramesInHeadAndNoise : Obligations.RenderCountsFramesInHeadAndNoise := by
  refine fun v s ha hp => ⟨_, exec_wrRgo_running v ha hp, fun c => ?_⟩
  have hfill : (fillAll s).ch c = (s.ch c).fill s.tick.toNat := ch_mapCh s _ c
  have hlfsr := renderFrames_lfsr s.rcount.toNat 0 (fillAll s) c
  have hhead := renderFrames_head s.rcount.toNat 0 (fillAll s) c
  rw [hfill, fill_eq] at hlfsr hhead
  exact ⟨fun hn => hlfsr.trans (if_pos hn), fun hn => hlfsr.trans (if_neg hn), hhead⟩

end Sys2Proof.Machine
end

section
/-!
The two operations of the ring (44_ring.md R300, R301, R305): the slots after a consumption, by offset from the head.
-/

namespace Sys2Proof.Machine

open Config

/-- Consumption moves each slot one offset nearer to the head (44_ring.md R300). -/
theorem slotAt_consume_of_succ_lt (ch : Channel) {j : Nat} (h : j + 1 < RING_CAP) :
    ch.consume.2.slotAt j = ch.slotAt (j + 1) :=
  (slotAt_consume ch (Nat.lt_of_succ_lt h)).trans (if_pos h)

/-- Consumption leaves the last offset empty (44_ring.md R300). -/
theorem slotAt_consume_last (ch : Channel) : ch.consume.2.slotAt (RING_CAP - 1) = 0 :=
  (slotAt_consume ch (by decide)).trans (if_neg (by decide))

/-- Settles O47: consumption and the truncating write, offset by offset from the head. -/
theorem ringConsumesAndTruncates : Obligations.RingConsumesAndTruncates := fun ch =>
  ⟨consume_word ch, consume_eq ch, consume_head ch, fun _ => slotAt_consume_of_succ_lt ch, slotAt_consume_last ch,
    fun k w _ => ⟨scheduleAndTruncate_eq ch k w, fun _ => slotAt_scheduleAndTruncate ch k w⟩⟩

end Sys2Proof.Machine
end

section
/-!
The fill (45_log_fill.md R316 to R321): a whole fill is a run of single advances that ends where the fill stops.
-/

namespace Sys2Proof.Machine

open Config

/-! ### One examination -/

/-- An examination of the fill that gives no advance is one where the fill stops (45_log_fill.md R319). -/
theorem fillStops_of_fillOnce {cur : Nat} {ch : Channel} (h : ch.fillOnce cur = none) : ch.FillStops cur := by
  unfold Channel.fillOnce at h
  simp only at h
  split at h
  · next hmax => exact .inl hmax
  · split at h
    · next hlog =>
      refine .inr (.inl fun e T hl => ?_)
      obtain ⟨entry, hentry, rfl, -⟩ := (logical_iff ..).1 hl
      exact Option.some_ne_none entry (hentry.symm.trans hlog)
    · next entry hlog =>
      split at h
      · next hpast => exact .inr (.inr ⟨_, _, (logical_iff ..).2 ⟨entry, hlog, rfl, rfl⟩, hpast⟩)
      · cases h

/-- A cursor below its saturated value counts one without wrap (45_log_fill.md R322). -/
theorem cursor_add_one {p : Word} (h : p.toNat ≠ cursorMax) : (p + 1).toNat = p.toNat + 1 := by
  have hlt := p.isLt
  unfold cursorMax at h
  exact BitVec.toNat_add_of_lt (show p.toNat + 1 < 2 ^ 32 by omega)

/-- An examination of the fill that gives a channel is a single advance to it (45_log_fill.md R319, R321). -/
theorem fillAdvances_of_fillOnce {cur : Nat} {ch x : Channel} (h : ch.fillOnce cur = some x) :
    ch.FillAdvances cur x := by
  obtain ⟨entry, t, hmax, hlog, ht, hend, rfl⟩ := fillOnce_eq_some h
  refine ⟨hmax, cursor_add_one hmax, rfl, _, t, entry, (logical_iff ..).2 ⟨entry, hlog, rfl, ht⟩, hlog, hend, ?_⟩
  have hend : t < cur + 64 * 64 := hend
  by_cases hlate : t < cur
  · rw [if_pos hlate]
    exact if_neg (Nat.not_le.2 hlate)
  · rw [if_neg hlate]
    refine ⟨by simp only [FI, RING_CAP]; omega, fun j hj => ?_⟩
    rw [if_pos (Nat.not_lt.1 hlate), ← slotAt_scheduleAndTruncate ch _ _ hj]
    rfl

/-! ### A run of examinations -/

theorem fillUpTo_of_none {cur : Nat} {ch : Channel} (h : ch.fillOnce cur = none) (n : Nat) :
    Channel.fillUpTo cur (n + 1) ch = ch := by
  simp only [Channel.fillUpTo, h]

theorem fillUpTo_of_some {cur : Nat} {ch x : Channel} (h : ch.fillOnce cur = some x) (n : Nat) :
    Channel.fillUpTo cur (n + 1) ch = Channel.fillUpTo cur n x := by
  simp only [Channel.fillUpTo, h]

/-- The channels that at most `N` examinations pass are those after `0, 1, …, n ≤ N` of them. -/
theorem fillUpTo_run (cur N : Nat) (ch : Channel) :
    ∃ n ≤ N, Channel.fillUpTo cur n ch = Channel.fillUpTo cur N ch ∧
      (∀ k < n, Channel.FillAdvances cur (Channel.fillUpTo cur k ch) (Channel.fillUpTo cur (k + 1) ch)) ∧
      (n = N ∨ Channel.FillStops cur (Channel.fillUpTo cur N ch)) := by
  induction N generalizing ch with
  | zero => exact ⟨0, le_rfl, rfl, nofun, .inl rfl⟩
  | succ N ih =>
    cases hx : ch.fillOnce cur with
    | none =>
      rw [fillUpTo_of_none hx]
      exact ⟨0, Nat.zero_le _, rfl, nofun, .inr (fillStops_of_fillOnce hx)⟩
    | some x =>
      obtain ⟨n, hn, hend, hrun, hstop⟩ := ih x
      refine ⟨n + 1, Nat.succ_le_succ hn, ?_, fun k hk => ?_, ?_⟩
      · rw [fillUpTo_of_some hx, fillUpTo_of_some hx, hend]
      · rw [fillUpTo_of_some hx]
        cases k with
        | zero => exact fillAdvances_of_fillOnce hx
        | succ k =>
          rw [fillUpTo_of_some hx]
          exact hrun k (Nat.lt_of_succ_lt_succ hk)
      · rw [fillUpTo_of_some hx]
        exact hstop.imp_left (congrArg (· + 1))

/-- Settles O49: the run is the channels after each number of examinations. -/
theorem fillWalksTheLogToTheWindowEnd : Obligations.FillWalksTheLogToTheWindowEnd := by
  refine fun cur ch => ⟨fun h => if_neg (Bool.eq_false_iff.1 h), fun h => ?_⟩
  have hfill : ch.fill cur = Channel.fillUpTo cur SCAN_LIMIT ch := if_pos h
  obtain ⟨n, hn, hend, hrun, hstop⟩ := fillUpTo_run cur SCAN_LIMIT ch
  exact ⟨n, fun k => Channel.fillUpTo cur k ch, hn, rfl, hend.trans hfill.symm, hrun, hfill ▸ hstop⟩

end Sys2Proof.Machine
end

section
/-!
The loop region of a log (45_log_fill.md R317, R318, R328): one play later the fill meets the same entry one loop span
later.
-/

namespace Sys2Proof.Machine

open Config

/-! ### Effective index and shift in the region -/

section InLoop

variable {ch : Channel} {p : Nat}

theorem inLoop_add (h : ch.inLoop p = true) (k : Nat) : ch.inLoop (p + k) = true := by
  unfold Channel.inLoop at h ⊢
  rw [Bool.and_eq_true, decide_eq_true_eq] at h ⊢
  exact ⟨h.1, h.2.trans (Nat.le_add_right p k)⟩

theorem first_le_of_inLoop (h : ch.inLoop p = true) : ch.loopFirst.val ≤ p :=
  of_decide_eq_true (Bool.and_eq_true_iff.1 h).2

theorem effIndex_inLoop (h : ch.inLoop p = true) :
    ch.effIndex p = ch.loopFirst.val + (p - ch.loopFirst.val) % ch.loopLen := if_pos h

theorem effShift_inLoop (h : ch.inLoop p = true) :
    ch.effShift p = (p - ch.loopFirst.val) / ch.loopLen * (ch.loopEnd.toNat - ch.loopStart.toNat) := if_pos h

theorem effIndex_add_loopLen (h : ch.inLoop p = true) : ch.effIndex (p + ch.loopLen) = ch.effIndex p := by
  rw [effIndex_inLoop (inLoop_add h _), effIndex_inLoop h, Nat.sub_add_comm (first_le_of_inLoop h), Nat.add_mod_right]

theorem effShift_add_loopLen (h : ch.inLoop p = true) :
    ch.effShift (p + ch.loopLen) = ch.effShift p + (ch.loopEnd.toNat - ch.loopStart.toNat) := by
  rw [effShift_inLoop (inLoop_add h _), effShift_inLoop h, Nat.sub_add_comm (first_le_of_inLoop h),
    Nat.add_div_right _ (show 0 < ch.loopLen from Nat.succ_pos _), Nat.succ_mul]

end InLoop

/-! ### One examination at a given cursor value -/

/-- The channel after an examination at `cur`, with cursor value `p`, of an entry of word `w` at logical tick `t`
(45_log_fill.md R319): none past the window. -/
def Channel.passEntry (cur p t : Nat) (w : Word) (ch : Channel) : Option Channel :=
  if windowEnd lsg cur ≤ t then none
  else
    some { (if cur ≤ t then ch.scheduleAndTruncate ((t - cur) / FI) w else ch) with
      cursor := BitVec.ofNat 32 (p + 1) }

/-- An examination at a cursor value below the saturated one. -/
theorem fillOnce_at (cur : Nat) (ch : Channel) {p : Nat} (hp : p < cursorMax) :
    Channel.fillOnce cur { ch with cursor := BitVec.ofNat 32 p } =
      ch.log[ch.effIndex p]?.bind fun entry => ch.passEntry cur p (entry.tick.toNat + ch.effShift p) entry.cmd := by
  have hv : (BitVec.ofNat 32 p).toNat = p := Nat.mod_eq_of_lt (hp.trans (by decide))
  have hi : ({ ch with cursor := BitVec.ofNat 32 p } : Channel).effIndex p = ch.effIndex p := rfl
  have hs : ({ ch with cursor := BitVec.ofNat 32 p } : Channel).effShift p = ch.effShift p := rfl
  unfold Channel.fillOnce Channel.passEntry
  simp only [hv, hi, hs, if_neg hp.ne]
  cases ch.log[ch.effIndex p]? with
  | none => rfl
  | some entry =>
    simp only [Option.bind_some, BitVec.ofNat_add]
    split
    · rfl
    · split <;> rfl

/-- Cursor, tick and logical tick enter an examination by their differences alone. -/
theorem passEntry_add (cur p t span len : Nat) (w : Word) (ch : Channel) :
    ch.passEntry (cur + span) (p + len) (t + span) w =
      (ch.passEntry cur p t w).map fun x => { x with cursor := BitVec.ofNat 32 (x.cursor.toNat + len) } := by
  have hw : windowEnd lsg (cur + span) ≤ t + span ↔ windowEnd lsg cur ≤ t := by
    simp only [windowEnd]
    omega
  unfold Channel.passEntry
  rw [Nat.add_sub_add_right]
  simp only [hw, Nat.add_le_add_iff_right]
  split
  · rfl
  · have hc : BitVec.ofNat 32 ((BitVec.ofNat 32 (p + 1)).toNat + len) = BitVec.ofNat 32 (p + len + 1) := by
      rw [BitVec.ofNat_add, BitVec.ofNat_toNat, BitVec.setWidth_eq, ← BitVec.ofNat_add, Nat.add_right_comm]
    simp only [Option.map_some, hc]

/-- Settles O51: the effective index and the shift of the next play, and the one examination, which sees only them. -/
theorem loopRegionRepeatsWithItsSpan : Obligations.LoopRegionRepeatsWithItsSpan := by
  intro ch p hen hle hlt hp len span
  have hin : ch.inLoop p = true := by simp [Channel.inLoop, Channel.loopActive, hen, hle, hlt, hp]
  have hmod : (p - ch.loopFirst.val) % ch.loopLen < ch.loopLen := Nat.mod_lt _ (Nat.succ_pos _)
  have hlen : ch.loopLen = ch.loopLast.val - ch.loopFirst.val + 1 := rfl
  refine ⟨by rw [effIndex_inLoop hin]; omega, fun hlast => ?_, effIndex_add_loopLen hin, effShift_add_loopLen hin,
    fun cur hcur => ?_⟩
  · have hfirst : p - ch.loopFirst.val < ch.loopLen := by omega
    rw [effIndex_inLoop hin, effShift_inLoop hin, Nat.mod_eq_of_lt hfirst, Nat.div_eq_of_lt hfirst, Nat.zero_mul]
    exact ⟨Nat.add_sub_cancel' hp, rfl⟩
  · rw [fillOnce_at _ _ hcur, fillOnce_at _ _ (show p < cursorMax by unfold cursorMax; omega)]
    have hentry : ch.effIndex (p + len) = ch.effIndex p := effIndex_add_loopLen hin
    have hshift : ch.effShift (p + len) = ch.effShift p + span := effShift_add_loopLen hin
    simp only [hentry, hshift, ← Nat.add_assoc, passEntry_add, Option.map_bind, Function.comp_def]

end Sys2Proof.Machine
end

section
/-!
A render in two parts (46_render.md R354): a frame depends on its address, not on its index or on the render registers,
so the frames of a second render that starts where the first ends are the later frames of the whole one.
-/

namespace Sys2Proof.Machine

open Config

/-! ### States from which frames come out alike -/

/-- Frame `i` of `s` and frame `j` of `t` are made from the same channels, tables and tick, and written in the same
format at the same address of the same memory. -/
structure FramesAlike (i j : Nat) (s t : State) : Prop where
  tick    : s.tick = t.tick
  chans   : s.chans = t.chans
  wt      : s.wt = t.wt
  ct      : s.ct = t.ct
  out     : s.out = t.out
  rstereo : s.rstereo = t.rstereo
  rbig    : s.rbig = t.rbig
  rstride : s.rstride = t.rstride
  addr    : frameAddr s i = frameAddr t j

/-- A sample write sees no more of the state than its byte order and the memory it writes (20_memory.md R105). -/
theorem writeSample_out_congr {s t : State} (hbig : s.rbig = t.rbig) (hout : s.out = t.out) (a : Nat) (v : Sample) :
    (writeSample a v s).out = (writeSample a v t).out := by
  unfold writeSample
  rw [hbig]
  split <;> simp only [outWrite_out, hout]

namespace FramesAlike

variable {i j : Nat} {s t : State}

theorem writeFrame_out (h : FramesAlike i j s t) (v : Sample) : (writeFrame i v s).out = (writeFrame j v t).out := by
  have hsample := writeSample_out_congr h.rbig h.out (frameAddr t j) v
  unfold writeFrame
  rw [h.addr, h.rstereo]
  split
  · refine writeSample_out_congr ?_ hsample _ v
    rw [writeSample_eq, writeSample_eq _ _ t]
    exact h.rbig
  · exact hsample

theorem mix (h : FramesAlike i j s t) : mix s = mix t := by
  simp only [Machine.mix, State.ch, h.chans, h.wt]

theorem stepAll_consumeAll (h : FramesAlike i j s t) :
    FramesAlike i j (stepAll (consumeAll i s)) (stepAll (consumeAll j t)) := by
  rw [Machine.stepAll_consumeAll, Machine.stepAll_consumeAll]
  exact { h with chans := by rw [h.chans, h.ct, h.tick] }

theorem renderFrame (h : FramesAlike i j s t) :
    FramesAlike (i + 1) (j + 1) (renderFrame i s) (renderFrame j t) := by
  have hout : (Machine.renderFrame i s).out = (Machine.renderFrame j t).out := by
    rw [renderFrame_out, renderFrame_out, h.stepAll_consumeAll.mix, h.stepAll_consumeAll.writeFrame_out]
  have haddr := h.addr
  rw [renderFrame_eq i s, renderFrame_eq j t]
  exact { h with
    tick := congrArg (· + 1) h.tick
    chans := by rw [h.chans, h.ct, h.tick]
    out := hout
    addr := by
      unfold frameAddr at haddr ⊢
      rw [Nat.succ_mul, Nat.succ_mul, ← Nat.add_assoc, ← Nat.add_assoc, haddr, h.rstride] }

theorem renderFrames (h : FramesAlike i j s t) (n : Nat) :
    FramesAlike (i + n) (j + n) (renderFrames n i s) (renderFrames n j t) := by
  induction n with
  | zero => exact h
  | succ n ih =>
    rw [renderFrames_last, renderFrames_last]
    exact ih.renderFrame

end FramesAlike

/-! ### Renders with no log bound -/

/-- No channel has a log bound, so a fill does nothing (45_log_fill.md R319). -/
def State.Unbound (s : State) : Prop := ∀ c : Chan, (s.ch c).bound = false

theorem fillAll_unbound {s : State} (h : s.Unbound) : fillAll s = s := by
  have hchans : s.chans.map (Channel.fill s.tick.toNat) = s.chans :=
    Vector.ext fun k hk => by
      rw [Vector.getElem_map]
      exact if_neg (Bool.eq_false_iff.1 (h ⟨k, hk⟩))
  unfold fillAll State.mapCh
  rw [hchans]

theorem framed_bound (ct : Vector Word NOTE_COUNT) (tick : Word) (ch : Channel) :
    (ch.framed ct tick).bound = ch.bound := by
  rw [Channel.framed, frameStep_eq]
  split
  · rw [Channel.consumed, fadeStep_eq, applied_eq]
    rfl
  · rfl

theorem State.Unbound.renderFrames {s : State} (h : s.Unbound) (n i : Nat) : (renderFrames n i s).Unbound := by
  induction n with
  | zero => exact h
  | succ n ih => exact fun c => by rw [ch_renderFrames_last, framed_bound, ih c]

theorem exec_wrRgo_unbound (v : Word) {s : State} (ha : s.renderAccepted) (hp : s.pause = false) (hu : s.Unbound) :
    exec (.wrRgo v) s = .next (done (renderFrames s.rcount.toNat 0 s)) := by
  rw [exec_wrRgo_running v ha hp, fillAll_unbound hu]

/-! ### The two parts -/

/-- A render of frames `k` to `k + n - 1` of an accepted render passes the checks too (46_render.md R341). -/
theorem renderAccepted_part {s t : State} {k n : Nat} (ha : s.renderAccepted) (hn : 0 < n)
    (hle : k + n ≤ s.rcount.toNat) (hcount : t.rcount.toNat = n) (hbase : t.rbase.toNat = frameAddr s k)
    (hstride : t.rstride = s.rstride) (hstereo : t.rstereo = s.rstereo) : t.renderAccepted := by
  obtain ⟨hfirst, -⟩ := frameFits_of_accepted ha (i := k) (by omega)
  obtain ⟨-, hlast⟩ := frameFits_of_accepted ha (i := k + (n - 1)) (by omega)
  obtain ⟨-, -, hsize, -⟩ := ha
  have hfs : frameSize t = frameSize s := by unfold frameSize; rw [hstereo]
  unfold State.renderAccepted
  rw [hcount, hbase, hstride, hfs]
  refine ⟨hn.ne', hfirst.ne', hsize, ?_⟩
  unfold frameAddr at hlast ⊢
  rwa [Nat.add_mul, ← Nat.add_assoc] at hlast

/-- The render of the first `m` frames of the render that `s` asks for. -/
def firstPart (m : Nat) (s : State) : State := { s with rcount := BitVec.ofNat 32 m }

/-- The render of `n` frames that `t` is asked for next, from where frame `m` of the render of `s` is written. -/
def laterPart (m n : Nat) (s t : State) : State :=
  { t with rcount := BitVec.ofNat 32 n, rbase := BitVec.ofNat 32 (frameAddr s m) }

/-- After the first `m` frames, frame `m` of the whole render and the first frame of the later part come out alike. -/
theorem framesAlike_laterPart {s : State} {m : Nat} (n : Nat) (haddr : frameAddr s m < 2 ^ 32) :
    FramesAlike m 0 (renderFrames m 0 s) (laterPart m n s (done (renderFrames m 0 (firstPart m s)))) := by
  have hparts : FramesAlike 0 0 s (firstPart m s) := ⟨rfl, rfl, rfl, rfl, rfl, rfl, rfl, rfl, rfl⟩
  have hwhole : frameAddr (renderFrames m 0 s) m = frameAddr s m := by rw [renderFrames_eq]; rfl
  have hlater : frameAddr (laterPart m n s (done (renderFrames m 0 (firstPart m s)))) 0 = frameAddr s m := by
    unfold frameAddr at haddr ⊢
    rw [Nat.zero_mul]
    exact Nat.mod_eq_of_lt haddr
  exact { hparts.renderFrames m with addr := hwhole.trans hlater.symm }

/-- Both parts of an accepted render with no log bound run, and after them the channels, the tick and the output memory
are those after the whole render. -/
theorem render_parts (v : Word) {s : State} {m n : Nat} (hm : 0 < m) (hn : 0 < n) (hc : s.rcount.toNat = m + n)
    (ha : s.renderAccepted) (hp : s.pause = false) (hu : s.Unbound) :
    let first := done (renderFrames m 0 (firstPart m s))
    let second := renderFrames n 0 (laterPart m n s first)
    exec (.wrRgo v) (firstPart m s) = .next first ∧ exec (.wrRgo v) (laterPart m n s first) = .next (done second) ∧
      FramesAlike (m + n) (0 + n) (renderFrames (m + n) 0 s) second := by
  intro first second
  have hlt : m + n < 2 ^ 32 := hc ▸ s.rcount.isLt
  have hcm : (firstPart m s).rcount.toNat = m := Nat.mod_eq_of_lt (by omega)
  have hcn : (laterPart m n s first).rcount.toNat = n := Nat.mod_eq_of_lt (by omega)
  have haddr : frameAddr s m < 2 ^ 32 := by
    obtain ⟨-, hfit⟩ := frameFits_of_accepted ha (i := m) (by omega)
    unfold OUT_BYTES at hfit
    omega
  have hkept : first.rstride = s.rstride ∧ first.rstereo = s.rstereo ∧ first.pause = s.pause := by
    simp only [first]
    rw [renderFrames_eq]
    exact ⟨rfl, rfl, rfl⟩
  obtain ⟨hstride, hstereo, hpause⟩ := hkept
  refine ⟨?_, ?_, ?_⟩
  · have hbase : (firstPart m s).rbase.toNat = frameAddr s 0 := by simp [frameAddr, firstPart]
    have hacc := renderAccepted_part ha hm (by omega) hcm hbase rfl rfl
    rw [exec_wrRgo_unbound v hacc hp hu, hcm]
  · have hbase : (laterPart m n s first).rbase.toNat = frameAddr s m := Nat.mod_eq_of_lt haddr
    have hacc := renderAccepted_part ha hn (by omega) hcn hbase hstride hstereo
    have hu' : (firstPart m s).Unbound := hu
    rw [exec_wrRgo_unbound v hacc (hpause.trans hp) (hu'.renderFrames m 0), hcn]
  · rw [renderFrames_add, Nat.zero_add m]
    exact (framesAlike_laterPart n haddr).renderFrames n

/-- Settles O57: the frames of the second render come out as frames `m`, `m + 1`, … of the whole render do. -/
theorem splitRenderEqualsWholeRender : Obligations.SplitRenderEqualsWholeRender := by
  intro v s m n hm hn hc ha hp hu
  have hwhole := exec_wrRgo_unbound v ha hp hu
  rw [hc] at hwhole
  obtain ⟨hfirst, hsecond, halike⟩ := render_parts v hm hn hc ha hp hu
  exact ⟨_, _, _, hwhole, hfirst, hsecond, halike.chans.symm, halike.tick.symm, halike.out.symm⟩

end Sys2Proof.Machine
end

section
/-!
The consumption step of a frame (46_render.md R345): what it makes of one channel, and the instruction it runs.
-/

namespace Sys2Proof.Machine

open Config

theorem ch_consumeStep (i : Nat) (c : Chan) (s : State) : (consumeStep i c s).ch c = (s.ch c).consumed s.ct := by
  rw [consumeStep_eq]
  exact ch_setCh_same s c _

/-- What a channel's consumption step adds to the observer stream. -/
theorem drop_trace_consumeStep (i : Nat) (c : Chan) (s : State) :
    (consumeStep i c s).trace.drop s.trace.length = (s.ch c).consumedRecord c i := by
  rw [consumeStep_eq]
  exact List.drop_left

theorem ch_consumeAll_tick (i : Nat) {s : State} (h : s.tick.toNat % FI = 0) (c : Chan) :
    (consumeAll i s).ch c = (s.ch c).consumed s.ct := by
  rw [consumeAll_tick i h]
  exact ch_mapCh s (Channel.consumed s.ct) c

/-- The consumption step runs the instruction its head word decodes to, then the fade (46_render.md R345). -/
theorem consumeStep_of_decode {i : Nat} {c : Chan} {s : State} {j : Instr}
    (h : decode (.command c i (s.ch c).consume.1) = .ok j) :
    ∃ t, exec j (s.setCh c (s.ch c).consume.2) = .next t ∧ consumeStep i c s = t.modCh c Channel.fadeStep := by
  obtain ⟨-, rfl⟩ := decode_command_ok.1 h
  refine ⟨_, exec_command c i _ _, ?_⟩
  rw [word_formOf]
  rfl

/-- Settles O9: the steps of the channels each write their own channel and append to the stream, so their order shows
there alone. -/
theorem consumptionTickAppliesEachHeadWord : Obligations.ConsumptionTickAppliesEachHeadWord := by
  refine fun i s => ⟨consumeAll_other i, fun h => ⟨?_, fun c => ?_, ?_⟩, fun c j => consumeStep_of_decode⟩
  · rw [consumeAll_tick i h]
  · rw [ch_consumeAll_tick i h, ch_consumeStep]
  · simp only [drop_trace_consumeStep]
    rw [consumeAll_tick i h]

end Sys2Proof.Machine
end

section
/-!
The checks of a render (46_render.md R341, R343) and what a render that runs may change (R353).
-/

namespace Sys2Proof.Machine

open Config

/-! ### The checks -/

/-- Settles O52: each check is met with the ones before it passed. -/
theorem renderChecksInOrder : Obligations.RenderChecksInOrder := by
  intro v s
  have hexec : exec (.wrRgo v) s = render s := rfl
  rw [hexec, render]
  simp only [rbase_eq_zero]
  refine ⟨fun hn => ?_, fun hn hb => ?_, fun hn hb hs => ?_, fun hn hb hs he => ?_, rfl⟩
  · rw [if_pos hn]
  · rw [if_neg hn, if_pos hb]
    rfl
  · rw [if_neg hn, if_neg hb, if_pos hs]
    rfl
  · rw [if_neg hn, if_neg hb, if_neg (Nat.not_lt.2 hs), if_pos he]
    rfl

/-! ### The playback state of a channel -/

/-- Channel `x` is channel `ch` but for its playback state (46_render.md R353). -/
def Channel.SameSettings (ch x : Channel) : Prop :=
  x = { ch with
    ring := x.ring, head := x.head, cursor := x.cursor, keycnt := x.keycnt, phase := x.phase, gain := x.gain,
    nvol := x.nvol, base := x.base, bent := x.bent, lastnote := x.lastnote, svol := x.svol, pos := x.pos,
    lfsr := x.lfsr }

theorem Channel.SameSettings.refl (ch : Channel) : ch.SameSettings ch := rfl

theorem Channel.SameSettings.trans {ch x y : Channel} (hx : ch.SameSettings x) (hy : x.SameSettings y) :
    ch.SameSettings y := by
  unfold Channel.SameSettings at *
  rw [hy, hx]

theorem sameSettings_fill (cur : Nat) (ch : Channel) : ch.SameSettings (ch.fill cur) := by
  rw [fill_eq]
  rfl

/-- Consumption, command and fade (44_ring.md R300, 41_command_apply.md R238, 42_envelope.md R259). -/
theorem sameSettings_consumed (ct : Vector Word NOTE_COUNT) (ch : Channel) : ch.SameSettings (ch.consumed ct) := by
  rw [Channel.consumed, fadeStep_eq, applied_eq, consume_eq]
  rfl

theorem sameSettings_frameStep (ch : Channel) : ch.SameSettings ch.frameStep := by
  rw [frameStep_eq]
  rfl

theorem sameSettings_framed (ct : Vector Word NOTE_COUNT) (tick : Word) (ch : Channel) :
    ch.SameSettings (ch.framed ct tick) := by
  unfold Channel.framed
  split
  · exact (sameSettings_consumed ct ch).trans (sameSettings_frameStep _)
  · exact sameSettings_frameStep ch

theorem sameSettings_renderFrames (n i : Nat) (s : State) (c : Chan) :
    (s.ch c).SameSettings ((renderFrames n i s).ch c) := by
  induction n with
  | zero => exact .refl _
  | succ n ih =>
    rw [ch_renderFrames_last]
    exact ih.trans (sameSettings_framed ..)

/-- Settles O54: by the fill and the run of frames, each a change of playback state. -/
theorem renderChangesOnlyPlaybackState : Obligations.RenderChangesOnlyPlaybackState := by
  refine fun v s ha hp => ⟨_, exec_wrRgo_running v ha hp, ?_, ?_, renderFrames_trace s.rcount.toNat 0 (fillAll s),
    fun c => ?_⟩
  · rw [renderFrames_eq]
    rfl
  · rw [done_tick, renderFrames_tick, BitVec.toNat_add, BitVec.toNat_ofNat, Nat.add_mod_mod]
    rfl
  · have hfill : (fillAll s).ch c = (s.ch c).fill s.tick.toNat := ch_mapCh s _ c
    have hframes := sameSettings_renderFrames s.rcount.toNat 0 (fillAll s) c
    rw [hfill] at hframes
    exact (sameSettings_fill ..).trans hframes

end Sys2Proof.Machine
end

section
/-!
What the frames of a render leave in the output memory (46_render.md R342, R350, R351): as the stride is no shorter than
a frame, no frame touches a byte of another.
-/

namespace Sys2Proof.Machine

open Config

/-! ### Frames in the output memory -/

/-- Frame `i` of the render that `s` asks for holds sample `v` in memory `m` (46_render.md R351). -/
def FrameAt (s : State) (m : Memory) (i : Nat) (v : Sample) : Prop :=
  SampleAt m s.rbig (frameAddr s i) v ∧ (s.rstereo = true → SampleAt m s.rbig (frameAddr s i + 2) v)

/-- Memory `m` is the output memory of `s` after `n` frames, frame `i` with sample `v i`. -/
def FramesWritten (s : State) (n : Nat) (v : Nat → Sample) (m : Memory) : Prop :=
  (∀ i, i < n → FrameAt s m i (v i)) ∧ ∀ a, ¬ InFrames s n a → Memory.read m a = Memory.read s.out a

/-- The frames of `s` and of `t` lie at the same addresses in the same format. -/
structure SameLayout (s t : State) : Prop where
  rbase   : t.rbase = s.rbase
  rstride : t.rstride = s.rstride
  rstereo : t.rstereo = s.rstereo
  rbig    : t.rbig = s.rbig

section SameLayout

variable {s t : State}

theorem SameLayout.frameAddr (h : SameLayout s t) (i : Nat) : frameAddr t i = frameAddr s i := by
  unfold Machine.frameAddr
  rw [h.rbase, h.rstride]

theorem SameLayout.frameSize (h : SameLayout s t) : frameSize t = frameSize s := by
  unfold Machine.frameSize
  rw [h.rstereo]

theorem SameLayout.frameAt_iff (h : SameLayout s t) {m : Memory} {i : Nat} {v : Sample} :
    FrameAt t m i v ↔ FrameAt s m i v := by
  unfold FrameAt
  rw [h.frameAddr, h.rstereo, h.rbig]

end SameLayout

theorem SampleAt.congr {m m' : Memory} {big : Bool} {a : Nat} {v : Sample} (h : SampleAt m big a v)
    (h0 : Memory.read m' a = Memory.read m a) (h1 : Memory.read m' (a + 1) = Memory.read m (a + 1)) :
    SampleAt m' big a v := by
  cases big
  · exact ⟨h0.trans h.1, h1.trans h.2⟩
  · exact ⟨h1.trans h.1, h0.trans h.2⟩

/-- A frame holds its sample in every memory that reads alike over its bytes. -/
theorem FrameAt.congr {s : State} {m m' : Memory} {i : Nat} {v : Sample} (h : FrameAt s m i v)
    (hr : ∀ a, frameAddr s i ≤ a → a < frameAddr s i + frameSize s → Memory.read m' a = Memory.read m a) :
    FrameAt s m' i v := by
  obtain ⟨hleft, hright⟩ := h
  have hsize : 2 ≤ frameSize s := by
    unfold frameSize
    split <;> omega
  refine ⟨hleft.congr (hr _ (by omega) (by omega)) (hr _ (by omega) (by omega)), fun hs => ?_⟩
  have hstereo : frameSize s = 4 := if_pos hs
  exact (hright hs).congr (hr _ (by omega) (by omega)) (hr _ (by omega) (by omega))

theorem frameSize_le_of_accepted {s : State} (h : s.renderAccepted) : frameSize s ≤ s.rstride.toNat := by
  obtain ⟨-, -, hstride, -⟩ := h
  exact hstride

/-- A frame ends before a later one begins (46_render.md R341, R350). -/
theorem frameAddr_add_size_le {s : State} (hs : frameSize s ≤ s.rstride.toNat) {i n : Nat} (h : i < n) :
    frameAddr s i + frameSize s ≤ frameAddr s n := by
  have hstep : (i + 1) * s.rstride.toNat ≤ n * s.rstride.toNat := Nat.mul_le_mul_right _ h
  rw [Nat.succ_mul] at hstep
  unfold frameAddr
  omega

/-- One more frame: it holds its sample, the earlier ones keep theirs. -/
theorem FramesWritten.succ {s t : State} {n : Nat} {v : Nat → Sample} (hs : frameSize s ≤ s.rstride.toNat)
    (h : FramesWritten s n v t.out) (hl : SameLayout s t) : FramesWritten s (n + 1) v (writeFrame n (v n) t).out := by
  obtain ⟨hframes, hother⟩ := h
  have hout : ∀ a, a < frameAddr s n ∨ frameAddr s n + frameSize s ≤ a →
      Memory.read (writeFrame n (v n) t).out a = Memory.read t.out a := fun a ha =>
    writeFrame_read_outside n (v n) t a (by rwa [hl.frameAddr, hl.frameSize])
  refine ⟨fun i hi => ?_, fun a ha => ?_⟩
  · obtain hlt | rfl := Nat.lt_succ_iff_lt_or_eq.1 hi
    · have hend := frameAddr_add_size_le hs hlt
      exact (hframes i hlt).congr fun a _ hlast => hout a (.inl (by omega))
    · exact hl.frameAt_iff.1 (writeFrame_sampleAt i (v i) t)
  · have hearlier : ¬ InFrames s n a := fun ⟨i, hi, hin⟩ => ha ⟨i, by omega, hin⟩
    have hlast : ¬ (frameAddr s n ≤ a ∧ a < frameAddr s n + frameSize s) := fun hin => ha ⟨n, by omega, hin⟩
    rw [hout a (by omega), hother a hearlier]

theorem framesWritten_zero (s : State) (v : Nat → Sample) : FramesWritten s 0 v s.out :=
  ⟨fun _ hi => absurd hi (Nat.not_lt_zero _), fun _ _ => rfl⟩

/-! ### Silent frames (46_render.md R342) -/

theorem silentFrames_last (n i : Nat) (s : State) :
    silentFrames (n + 1) i s = writeFrame (i + n) 0 (silentFrames n i s) := by
  induction n generalizing i s with
  | zero => rfl
  | succ n ih =>
    have hlater := ih (i + 1) (writeFrame i 0 s)
    rw [Nat.add_assoc, Nat.add_comm 1 n] at hlater
    exact hlater

theorem sameLayout_silentFrames (n i : Nat) (s : State) : SameLayout s (silentFrames n i s) := by
  rw [silentFrames_eq]
  exact ⟨rfl, rfl, rfl, rfl⟩

theorem framesWritten_silentFrames {s : State} (hs : frameSize s ≤ s.rstride.toNat) (n : Nat) :
    FramesWritten s n (fun _ => 0) (silentFrames n 0 s).out := by
  induction n with
  | zero => exact framesWritten_zero s _
  | succ n ih =>
    rw [silentFrames_last, Nat.zero_add]
    exact ih.succ hs (sameLayout_silentFrames n 0 s)

/-- An accepted render with pause set is its silent frames (46_render.md R342). -/
theorem exec_wrRgo_paused (v : Word) {s : State} (ha : s.renderAccepted) (hp : s.pause = true) :
    exec (.wrRgo v) s = .next (done (silentFrames s.rcount.toNat 0 s)) := by
  obtain ⟨h, -⟩ | ⟨h, -⟩ | ⟨-, -, e⟩ | ⟨-, h, -⟩ := render_cases s
  · exact absurd h ha.1
  · exact absurd ha h
  · exact e
  · exact absurd (h.symm.trans hp) Bool.false_ne_true

/-- Settles O53: the silent frames write the output memory alone. -/
theorem pausedRenderWritesSilence : Obligations.PausedRenderWritesSilence := by
  refine fun v s ha hp => ⟨_, exec_wrRgo_paused v ha hp, ?_, ?_⟩
  · rw [silentFrames_eq]
    rfl
  · exact framesWritten_silentFrames (frameSize_le_of_accepted ha) s.rcount.toNat

/-! ### Frames of the mix (46_render.md R345 to R351) -/

/-- The state whose mix frame `i` of a run of frames from `s` holds. -/
def mixedAt (s : State) (i : Nat) : State := stepAll (consumeAll i (renderFrames i 0 s))

/-- The sample of frame `i` of a run of frames from `s`. -/
def frameSample (s : State) (i : Nat) : Sample := toSample (clamp16 (mix (mixedAt s i)))

theorem sameLayout_mixedAt (s : State) (i : Nat) : SameLayout s (mixedAt s i) := by
  rw [mixedAt, stepAll_consumeAll, renderFrames_eq]
  exact ⟨rfl, rfl, rfl, rfl⟩

theorem mixedAt_out (s : State) (i : Nat) : (mixedAt s i).out = (renderFrames i 0 s).out := by
  rw [mixedAt, stepAll_consumeAll]

theorem mixedAt_wt (s : State) (i : Nat) : (mixedAt s i).wt = s.wt := by
  rw [mixedAt, stepAll_consumeAll, renderFrames_eq]

theorem renderFrames_succ_out (n : Nat) (s : State) :
    (renderFrames (n + 1) 0 s).out = (writeFrame n (frameSample s n) (mixedAt s n)).out := by
  rw [renderFrames_last, Nat.zero_add]
  rfl

theorem framesWritten_renderFrames {s : State} (hs : frameSize s ≤ s.rstride.toNat) (n : Nat) :
    FramesWritten s n (frameSample s) (renderFrames n 0 s).out := by
  induction n with
  | zero => exact framesWritten_zero s _
  | succ n ih =>
    rw [renderFrames_succ_out]
    rw [← mixedAt_out] at ih
    exact ih.succ hs (sameLayout_mixedAt s n)

/-- The sample of a frame is the clamped sum of the channels' contributions (46_render.md R347, R349). -/
theorem frameSample_eq (s : State) (i : Nat) :
    frameSample s i = BitVec.ofInt 16 (clamp (∑ c : Chan, ((mixedAt s i).ch c).contrib s.wt) (-32768) 32767) := by
  rw [frameSample, mix_eq, mixedAt_wt]
  rfl

/-- Settles O55: the frames written after the fill, each with the mix of its own state. -/
theorem renderWritesTheMixOfEveryFrame : Obligations.RenderWritesTheMixOfEveryFrame := by
  intro v s ha hp
  have hs : frameSize (fillAll s) ≤ (fillAll s).rstride.toNat := frameSize_le_of_accepted ha
  obtain ⟨hframes, hother⟩ := framesWritten_renderFrames hs s.rcount.toNat
  refine ⟨_, exec_wrRgo_running v ha hp, fun i hi => ?_, hother⟩
  have hframe := hframes i hi
  rw [frameSample_eq] at hframe
  exact hframe

end Sys2Proof.Machine
end

section
/-!
The host's register operations (47_host_ops.md R370 to R409): what each write stores behind its checks, and what each
read returns. First the steps these registers share.
-/

namespace Sys2Proof.Machine

open Config

/-! ### Checked stores and read fields -/

/-- A store whose check passes is done (10_state.md R61). -/
theorem storeRanged_accepted {α : Type} {o : Option α} {a : α} (h : o = some a) (f : α → State → State) (s : State) :
    storeRanged o f s = .next (done (f a s)) :=
  h ▸ storeRanged_some a f s

/-- A store whose check fails writes the status alone (10_state.md R61). -/
theorem storeRanged_refused {α : Type} {o : Option α} (h : o = none) (f : α → State → State) (s : State) :
    storeRanged o f s = .next { s with status := .range } :=
  h ▸ storeRanged_none f s

/-- A channel store whose check passes writes the channel alone (10_state.md R61). -/
theorem chStoreRanged_accepted {α : Type} {o : Option α} {a : α} (h : o = some a) (c : Chan)
    (f : α → Channel → Channel) (s : State) :
    ∃ t, chStoreRanged c o f s = .next t ∧ ChannelWritten c s t (f a (s.ch c)) :=
  h ▸ chStoreRanged_some c a f s

/-- A channel store whose check fails writes the status alone (10_state.md R61). -/
theorem chStoreRanged_refused {α : Type} {o : Option α} (h : o = none) (c : Chan) (f : α → Channel → Channel)
    (s : State) : chStoreRanged c o f s = .next { s with status := .range } :=
  h ▸ chStoreRanged_none c f s

/-- The check of an index register passes a number in range as that index. -/
theorem indexBelow_eq {n k : Nat} {i : Fin n} (h : k = i.val) : indexBelow n k = some i :=
  h ▸ indexBelow_val i

/-- A read of a field narrower than a word returns its number (10_state.md R59). -/
theorem answer_setWidth {n : Nat} (x : BitVec n) (s : State) :
    answer (x.setWidth 32) s = .next { s with rdata := BitVec.ofNat 32 x.toNat } := by
  rw [setWidth_eq_ofNat]
  rfl

/-- A read of two flags returns the number with the first in bit 1 and the second in bit 0. -/
theorem answer_flagWord (b1 b0 : Bool) (s : State) :
    answer (flagWord b1 b0) s = .next { s with rdata := BitVec.ofNat 32 (b0.toNat + 2 * b1.toNat) } := by
  rw [flagWord_eq]
  rfl

/-! ### The ADSR registers (47_host_ops.md R387) -/

/-- Settles O21: each write is a checked channel store, each read the answer of its field. -/
theorem adsrRegistersAreCheckedAndStored : Obligations.AdsrRegistersAreCheckedAndStored := by
  intro c v s
  have stored (h : v.toNat ≤ 0xFFFF) := chStoreRanged_accepted (rateOf_le h) c
  have refused (h : 0xFFFF < v.toNat) := chStoreRanged_refused (rateOf_gt h) c
  exact ⟨fun h => ⟨stored h _ s, stored h _ s, stored h _ s, stored h _ s⟩,
    fun h => ⟨refused h _ s, refused h _ s, refused h _ s, refused h _ s⟩,
    fun h => chStoreRanged_accepted (levelOf_le h) c _ s, fun h => chStoreRanged_refused (levelOf_gt h) c _ s,
    answer_setWidth _ s, answer_setWidth _ s, answer_setWidth _ s, answer_setWidth _ s, answer_setWidth _ s⟩

/-! ### GENSEL and the volumes (47_host_ops.md R386, R389 to R391) -/

/-- A slot number keeps its value from 8 bits to a word. -/
theorem slotCode_setWidth (k : Fin NUM_SLOTS) : (BitVec.ofNat 8 k.val).setWidth 32 = BitVec.ofNat 32 k.val := by
  have hk : k.val < 2 ^ 8 := k.isLt.trans (by decide)
  rw [setWidth_eq_ofNat, BitVec.toNat_ofNat, Nat.mod_eq_of_lt hk]

/-- Settles O22: each write is a checked channel store, each read the answer of its field. -/
theorem bindingAndVolumeRegistersAreChecked : Obligations.BindingAndVolumeRegistersAreChecked := by
  intro c v s
  have stored (h : v.toNat ≤ 127) := chStoreRanged_accepted (volumeOf_le h) c
  have refused (h : 127 < v.toNat) := chStoreRanged_refused (volumeOf_gt h) c
  refine ⟨fun k h => chStoreRanged_accepted (h ▸ genSel_slot k) c _ s,
    fun h => chStoreRanged_accepted (h ▸ genSel_noise) c _ s,
    fun h hn => chStoreRanged_refused (genSel_none h hn) c _ s, ?_,
    fun h => ⟨stored h _ s, stored h _ s, stored h _ s⟩,
    fun h => ⟨refused h _ s, refused h _ s, refused h _ s⟩,
    answer_setWidth _ s, answer_setWidth _ s, answer_setWidth _ s⟩
  show answer ((s.ch c).gensel.code.setWidth 32) s = _
  cases (s.ch c).gensel with
  | slot k => exact congrArg (answer · s) (slotCode_setWidth k)
  | noise => rfl

/-! ### The peek registers (47_host_ops.md R404, R405) -/

theorem peekLog_of_some {ch : Channel} {e : LogEntry} (h : ch.log[ch.logidx.val]? = some e) : ch.peekLog = e := by
  rw [Channel.peekLog, h, Option.getD_some]

theorem peekLog_past_end {ch : Channel} (h : ch.log.length ≤ ch.logidx.val) : ch.peekLog = ⟨0, 0⟩ := by
  rw [Channel.peekLog, List.getElem?_eq_none h, Option.getD_none]

/-- A read of LOGTICK and one of LOGCMD return the two fields of the entry that is shown. -/
theorem exec_rd_peekLog {c : Chan} {s : State} {e : LogEntry} (h : (s.ch c).peekLog = e) :
    exec (.rdChLogtick c) s = .next { s with rdata := e.tick } ∧
      exec (.rdChLogcmd c) s = .next { s with rdata := e.cmd } := by
  subst h
  exact ⟨rfl, rfl⟩

/-- Settles O24: two checked index registers, and three views that refuse every write. -/
theorem peekRegistersShowRingAndLog : Obligations.PeekRegistersShowRingAndLog := by
  intro c v s
  refine ⟨fun k h => chStoreRanged_accepted (indexBelow_eq h) c _ s,
    fun h => chStoreRanged_refused (indexBelow_ge h) c _ s, rfl, rfl,
    fun k h => chStoreRanged_accepted (indexBelow_eq h) c _ s,
    fun h => chStoreRanged_refused (indexBelow_ge h) c _ s, rfl,
    fun e h => exec_rd_peekLog (peekLog_of_some h), fun h => exec_rd_peekLog (peekLog_past_end h), fun i hi => ?_⟩
  simp only [List.mem_cons, List.not_mem_nil, or_false] at hi
  obtain rfl | rfl | rfl := hi <;> rfl

/-! ### The loop registers (47_host_ops.md R399) -/

/-- Settles O25: two checked index registers and two unchecked ones, each read the answer of its field. -/
theorem loopRegistersHoldTheRegion : Obligations.LoopRegistersHoldTheRegion := by
  intro c v s
  have stored {k : Fin LOG_CAP} (h : v.toNat = k.val) := chStoreRanged_accepted (indexBelow_eq h) c
  have refused (h : LOG_CAP ≤ v.toNat) := chStoreRanged_refused (indexBelow_ge h) c
  exact ⟨fun k h => ⟨stored h _ s, stored h _ s⟩, fun h => ⟨refused h _ s, refused h _ s⟩,
    chStore_next c _ s, chStore_next c _ s, rfl, rfl, rfl, rfl⟩

/-! ### The log (47_host_ops.md R395 to R398) -/

/-- CLEAR and REWIND each put the cursor to 0 (47_host_ops.md R395). -/
theorem logControl_cursor (v : Word) (ch : Channel) :
    (ch.logControl v).cursor = if v.getLsbD 2 || v.getLsbD 3 then 0 else ch.cursor := by
  unfold Channel.logControl
  cases v.getLsbD 2 <;> cases v.getLsbD 3 <;> rfl

/-- Settles O26: LOGCTRL is an unchecked store of `logControl`; the other writes are a store and two refusals. -/
theorem logControlClearsRewindsAndBinds : Obligations.LogControlClearsRewindsAndBinds := by
  intro c v s
  refine ⟨?_, answer_flagWord _ _ s, rfl, rfl, rfl, rfl, chStore_next c _ s, rfl⟩
  rw [← logControl_cursor, ← logControl_eq]
  exact chStore_next c (Channel.logControl v) s

/-- A tick is out of order if the log has a last entry and that entry is later (47_host_ops.md R398). -/
theorem outOfOrder_iff (ch : Channel) (t : Word) :
    ch.outOfOrder t = true ↔ ∃ last, ch.log.getLast? = some last ∧ t.toNat < last.tick.toNat := by
  unfold Channel.outOfOrder
  cases ch.log.getLast? <;> simp

section Append

variable {c : Chan} {v : Word} {s : State}

theorem exec_wrChAppcmd_reserved (hw : cmdRsv v ≠ 0) :
    exec (.wrChAppcmd c v) s = .next { s with status := .malformed } :=
  if_pos hw

theorem exec_wrChAppcmd_late (hw : cmdRsv v = 0) (ho : (s.ch c).outOfOrder (s.ch c).apptick = true) :
    exec (.wrChAppcmd c v) s = .next { s with status := .malformed } :=
  (if_neg (not_not.2 hw)).trans (if_pos ho)

theorem exec_wrChAppcmd_full (hw : cmdRsv v = 0) (ho : ¬ (s.ch c).outOfOrder (s.ch c).apptick = true)
    (hn : (s.ch c).log.length = LOG_CAP) : exec (.wrChAppcmd c v) s = .next { s with status := .full } :=
  (if_neg (not_not.2 hw)).trans ((if_neg ho).trans (if_pos hn))

theorem exec_wrChAppcmd_append (hw : cmdRsv v = 0) (ho : ¬ (s.ch c).outOfOrder (s.ch c).apptick = true)
    (hn : (s.ch c).log.length ≠ LOG_CAP) :
    exec (.wrChAppcmd c v) s =
      chStore c (fun ch => { ch with log := ch.log ++ [⟨(s.ch c).apptick, v⟩] }) s :=
  (if_neg (not_not.2 hw)).trans ((if_neg ho).trans (if_neg hn))

end Append

/-- Settles O27: each check is met with the ones before it passed. -/
theorem appendChecksOrderAndCapacity : Obligations.AppendChecksOrderAndCapacity := by
  intro c v s
  rw [ne_eq, ← cmdRsv_eq_zero]
  refine ⟨exec_wrChAppcmd_reserved,
    fun hw last hl ht => exec_wrChAppcmd_late hw ((outOfOrder_iff ..).2 ⟨last, hl, ht⟩), fun hw hle => ?_, rfl⟩
  have ho : ¬ (s.ch c).outOfOrder (s.ch c).apptick = true := fun ho => by
    obtain ⟨last, hl, ht⟩ := (outOfOrder_iff ..).1 ho
    exact Nat.not_le.2 ht (hle last hl)
  refine ⟨exec_wrChAppcmd_full hw ho, fun hn => ?_⟩
  rw [exec_wrChAppcmd_append hw ho hn.ne]
  exact chStore_next c _ s

/-! ### The ring (47_host_ops.md R394) -/

section Schedule

variable {c : Chan} {v : Word} {s : State}

theorem exec_wrChSchcmd_reserved (hw : cmdRsv v ≠ 0) :
    exec (.wrChSchcmd c v) s = .next { s with status := .malformed } :=
  if_pos hw

theorem exec_wrChSchcmd_full (hw : cmdRsv v = 0) (hk : RING_CAP ≤ (s.ch c).schofs.toNat) :
    exec (.wrChSchcmd c v) s = .next { s with status := .full } :=
  (if_neg (not_not.2 hw)).trans (if_pos hk)

theorem exec_wrChSchcmd_write (hw : cmdRsv v = 0) (hk : (s.ch c).schofs.toNat < RING_CAP) :
    exec (.wrChSchcmd c v) s = chStore c (Channel.scheduleAndTruncate (s.ch c).schofs.toNat v) s :=
  (if_neg (not_not.2 hw)).trans (if_neg (Nat.not_le.2 hk))

end Schedule

/-- Settles O28: an accepted word is a truncating write at the staged offset. -/
theorem scheduleImmediateWritesTheRing : Obligations.ScheduleImmediateWritesTheRing := by
  intro c v s
  rw [ne_eq, ← cmdRsv_eq_zero]
  refine ⟨chStore_next c _ s, rfl, exec_wrChSchcmd_reserved, exec_wrChSchcmd_full, fun hw hk => ?_, rfl⟩
  obtain ⟨t, ht, hwritten⟩ := chStore_next c (Channel.scheduleAndTruncate (s.ch c).schofs.toNat v) s
  exact ⟨t, _, (exec_wrChSchcmd_write hw hk).trans ht, hwritten, scheduleAndTruncate_eq ..,
    fun j hj => slotAt_scheduleAndTruncate _ _ _ hj⟩

/-! ### The data ports (47_host_ops.md R378 to R385) -/

theorem exec_wrWtaddr (v : Word) (s : State) :
    exec (.wrWtaddr v) s = storeRanged (wtAddrOf lsg v) (fun p s => { s with wtSlot := p.1, wtIdx := p.2 }) s := rfl

theorem exec_wrHcaddr (v : Word) (s : State) :
    exec (.wrHcaddr v) s = storeRanged (indexBelow NUM_HARM v.toNat) (fun k s => { s with hcIdx := k }) s := rfl

theorem exec_wrCtaddr (v : Word) (s : State) :
    exec (.wrCtaddr v) s = storeRanged (indexBelow NOTE_COUNT v.toNat) (fun k s => { s with ctIdx := k }) s := rfl

theorem exec_wrTapaddr (v : Word) (s : State) :
    exec (.wrTapaddr v) s = storeRanged (indexBelow NUM_TAPS v.toNat) (fun k s => { s with tapIdx := k }) s := rfl

/-- An entry of a table after the entry at `k` is replaced. -/
theorem getElem_set_fin {α : Type} {n : Nat} (xs : Vector α n) (k j : Fin n) (x : α) :
    (xs.set k x)[j] = if j = k then x else xs[j] := by
  simp only [Fin.getElem_fin, Vector.getElem_set, Fin.ext_iff, eq_comm]

/-- A sample of the wavetables after sample `i` of slot `k` is replaced. -/
theorem getElem_set_sample {α : Type} {n m : Nat} (xs : Vector (Vector α n) m) (k l : Fin m) (i j : Fin n) (x : α) :
    (xs.set k (xs[k].set i x))[l][j] = if l = k ∧ j = i then x else xs[l][j] := by
  rw [getElem_set_fin]
  by_cases hl : l = k
  · subst hl
    rw [if_pos rfl, getElem_set_fin]
    simp only [true_and]
  · simp only [hl, if_false, false_and]

/-- Settles O29: a checked store of the two pointers, and the sample there with the index advanced. -/
theorem wavetablePortReadsAndWritesSamples : Obligations.WavetablePortReadsAndWritesSamples := by
  intro v s
  rw [exec_wrWtaddr]
  refine ⟨fun h0 h1 h2 => ⟨_, storeRanged_accepted (wtAddrOf_ok h0 h1 h2) _ s, rfl, rfl, rfl⟩,
    fun h => storeRanged_refused (wtAddrOf_bad h) _ s, congrArg (answer · s) (wtAddrWord_eq s.wtSlot s.wtIdx),
    ⟨_, rfl, rfl, rfl, fun k i => ?_⟩, _, rfl, rfl, portOut_toInt _, rfl⟩
  rw [← portIn_eq]
  exact getElem_set_sample s.wt s.wtSlot k s.wtIdx i (portIn v)

/-- Settles O30: for each port a checked store of its pointer, and the entry there with the pointer advanced. -/
theorem coefficientPortsReadAndWriteTheirTables : Obligations.CoefficientPortsReadAndWriteTheirTables := by
  intro v s
  rw [← portIn_eq, exec_wrHcaddr, exec_wrCtaddr, exec_wrTapaddr]
  have stored {n : Nat} {k : Fin n} (h : v.toNat = k.val) := storeRanged_accepted (indexBelow_eq h)
  have refused {n : Nat} (h : n ≤ v.toNat) := storeRanged_refused (indexBelow_ge h)
  exact ⟨fun k h => stored h _ s, fun h => refused h _ s, rfl,
    ⟨_, rfl, rfl, rfl, fun k => getElem_set_fin s.hc s.hcIdx k (portIn v)⟩, ⟨_, rfl, rfl, portOut_toInt _, rfl⟩,
    fun k h => stored h _ s, fun h => refused h _ s, rfl,
    ⟨_, rfl, rfl, rfl, fun k => getElem_set_fin s.ct s.ctIdx k v⟩, ⟨_, rfl, rfl, rfl⟩,
    fun k h => stored h _ s, fun h => refused h _ s, rfl,
    ⟨_, rfl, rfl, rfl, fun k => getElem_set_fin s.tap s.tapIdx k (portIn v)⟩, _, rfl, rfl, portOut_toInt _, rfl⟩

/-! ### CTRL and INIT (47_host_ops.md R370, R371) -/

/-- The channel defaults are those of power-on reset (70_reset_and_hazards.md R453). -/
theorem Channel.atDefaults_reset : (Channel.reset lsg).AtDefaults where
  rates := ⟨rfl, rfl, rfl, rfl, rfl⟩
  silent := ⟨rfl, rfl, rfl⟩
  volumes := ⟨rfl, rfl, rfl, rfl⟩
  pitch := ⟨rfl, rfl, rfl, rfl, rfl⟩
  osc := ⟨rfl, rfl, rfl, rfl⟩
  ring := ⟨rfl, fun _ => Vector.getElem_replicate _⟩
  unbound := rfl

/-- INIT keeps no field that has a default (47_host_ops.md R371). -/
theorem Channel.atDefaults_afterInit (ch : Channel) : ch.afterInit.AtDefaults := by
  obtain ⟨rates, silent, volumes, pitch, osc, ring, unbound⟩ := Channel.atDefaults_reset
  exact ⟨rates, silent, volumes, pitch, osc, ring, unbound⟩

/-- A CTRL write without INIT writes the pause bit (47_host_ops.md R370). -/
theorem exec_wrCtrl_pause {v : Word} (h : v.getLsbD 1 = false) (s : State) :
    exec (.wrCtrl v) s = .next { s with pause := v.getLsbD 0, status := .ok } := by
  show complete (if v.getLsbD 1 then _ else _) = _
  rw [h]
  rfl

/-- A CTRL write with INIT writes the pause bit, then INIT runs on the block (47_host_ops.md R370, R371). -/
theorem exec_wrCtrl_init {v : Word} (h : v.getLsbD 1 = true) (s : State) :
    exec (.wrCtrl v) s = .next (done (initBlock { s with pause := v.getLsbD 0 })) := by
  show complete (if v.getLsbD 1 then _ else _) = _
  rw [h]
  rfl

/-- CTRL reads the pause bit (47_host_ops.md R370). -/
theorem ctrlWord_eq (s : State) : ctrlWord s = if s.pause then 1 else 0 := by
  unfold ctrlWord
  cases s.pause <;> rfl

/-- Settles O13: each channel comes out as `afterInit`, each sample as that of the silent wavetables. -/
theorem controlWritePausesAndInitializes : Obligations.ControlWritePausesAndInitializes := by
  intro v s
  refine ⟨fun h => exec_wrCtrl_pause h s, fun h => ⟨_, exec_wrCtrl_init h s, rfl, fun k i => ?_, fun c => ?_⟩, ?_⟩
  · exact congrArg BitVec.toInt (silentWavetables_sample (P := lsg) k i)
  · rw [done_ch, ch_initBlock]
    exact ⟨(s.ch c).atDefaults_afterInit, rfl, rfl, rfl, rfl, rfl, rfl, rfl, rfl, rfl, rfl, rfl⟩
  · exact congrArg (answer · s) (ctrlWord_eq s)

/-! ### The other global registers (47_host_ops.md R372 to R377) -/

/-- Settles O15: each write is an unchecked store, each read the answer of its field. -/
theorem globalRegistersHoldWhatIsWritten : Obligations.GlobalRegistersHoldWhatIsWritten := by
  intro v s
  refine ⟨rfl, rfl, rfl, rfl, rfl, rfl, rfl, rfl, rfl, answer_flagWord _ _ s, rfl, rfl, rfl, rfl,
    congrArg (answer · s) (?_ : s.status.code.setWidth 32 = _), rfl⟩
  cases s.status <;> rfl

/-! ### Read-only and write-only registers (47_host_ops.md R408, R409) -/

/-- Settles O16: every write in the list is a refusal. -/
theorem readOnlyRegistersRefuseWrites : Obligations.ReadOnlyRegistersRefuseWrites := by
  intro c v s
  simp only [List.forall_mem_cons]
  exact ⟨rfl, rfl, rfl, rfl, rfl, rfl, rfl, rfl, rfl, rfl, rfl, rfl, rfl, rfl, rfl, rfl, fun _ h => by cases h⟩

/-- A flag word has no bit past the two flags. -/
theorem flagWord_getLsbD_high (b1 b0 : Bool) {k : Nat} (h : 2 ≤ k) : (flagWord b1 b0).getLsbD k = false := by
  have hlt : (flagWord b1 b0).toNat < 2 ^ k := calc
    (flagWord b1 b0).toNat < 2 ^ 2 := by cases b1 <;> cases b0 <;> decide
    _ ≤ 2 ^ k := Nat.pow_le_pow_right (by decide) h
  exact Nat.testBit_lt_two_pow hlt

@[simp] theorem flagWord_getLsbD_one (b1 b0 : Bool) : (flagWord b1 b0).getLsbD 1 = b1 := by
  cases b1 <;> cases b0 <;> rfl

/-- Settles O17: the W1 bits lie outside the flags that CTRL and LOGCTRL read. -/
theorem writeOnlyRegistersReadZero : Obligations.WriteOnlyRegistersReadZero := by
  intro c v s
  refine ⟨?_, ⟨_, rfl, ?_⟩, ⟨_, rfl, ?_, ?_⟩, fun h => ⟨_, exec_wrCtrl_pause h s, rfl⟩, fun h2 h3 => ?_⟩
  · simp only [List.forall_mem_cons]
    exact ⟨rfl, rfl, rfl, rfl, rfl, fun _ h => by cases h⟩
  · exact flagWord_getLsbD_one false s.pause
  · exact flagWord_getLsbD_high _ _ (by decide)
  · exact flagWord_getLsbD_high _ _ (by decide)
  · obtain ⟨t, ht, hframe, hch, hother⟩ := chStore_next c (Channel.logControl v) s
    refine ⟨t, ht, hframe, ?_, hother⟩
    rw [hch, logControl_eq, logControl_cursor, h2, h3]
    rfl

end Sys2Proof.Machine
end

section
/-!
Every instruction completes (60_exceptions.md R420, R425), at every build; power-on reset and INIT right after it
(70_reset_and_hazards.md R450, R452, R453).
-/

namespace Sys2Proof.Machine

open Config

section Completes

variable {P : Params}

/-- The operation `m` answers a next state on every state. -/
def Completes (m : State P → Result P) : Prop := ∀ s, ∃ t, m s = .next t

namespace Completes

/-! ### The shared endings -/

theorem next (f : State P → State P) : Completes fun s => .next (f s) := fun s => ⟨f s, rfl⟩

theorem reject (k : Status) : Completes (P := P) (Machine.reject k) := next _

theorem storeRanged {α : Type} (o : Option α) (f : α → State P → State P) : Completes (Machine.storeRanged o f) := by
  cases o with
  | none => exact reject .range
  | some a => exact next _

theorem chStore (c : Fin P.numCh) (f : Channel P → Channel P) : Completes (Machine.chStore c f) := next _

theorem chStoreRanged {α : Type} (c : Fin P.numCh) (o : Option α) (f : α → Channel P → Channel P) :
    Completes (Machine.chStoreRanged c o f) := storeRanged o _

/-- Two operations that complete, and the test that decides between them. -/
theorem ite {p : State P → Prop} [DecidablePred p] {m n : State P → Result P} (hm : Completes m) (hn : Completes n) :
    Completes fun s => if p s then m s else n s := by
  intro s
  by_cases hp : p s
  · exact (hm s).imp fun t ht => (if_pos hp).trans ht
  · exact (hn s).imp fun t ht => (if_neg hp).trans ht

/-- A check in front of an operation: refused with a code, or the operation. -/
theorem check {p : State P → Prop} [DecidablePred p] (k : Status) {m : State P → Result P} (h : Completes m) :
    Completes fun s => if p s then Machine.reject k s else m s := ite (reject k) h

/-- A generator operation, its argument check and waveform read from the state it starts in. -/
theorem generate (dst : BitVec 8) (ok : State P → Bool) (wave : State P → Fin P.wtLen → Sample) :
    Completes fun s => Machine.generate dst (ok s) (wave s) s := by
  unfold Machine.generate
  cases indexBelow P.numSlots dst.toNat with
  | none => exact reject .range
  | some d => exact ite (next _) (reject .range)

/-! ### The operations with an order of checks of their own -/

/-- The render makes its checks in order, then writes silence or frames (46_render.md R341, R342). -/
theorem render : Completes (P := P) Machine.render :=
  ite (next id) <| check .null <| check .malformed <| check .range <| ite (next _) (next _)

theorem execGenMix (dst srcA srcB : BitVec 8) : Completes (P := P) (Machine.execGenMix dst srcA srcB) := by
  unfold Machine.execGenMix
  cases GenSel.ofNat P srcA.toNat with
  | none => exact reject .range
  | some a =>
    cases GenSel.ofNat P srcB.toNat with
    | none => exact reject .range
    | some b => exact generate _ _ _

/-- A word of GCMD is refused or runs one of the eight generator operations (47_host_ops.md R376). -/
theorem runGenerator (v : Word) : Completes (P := P) (Machine.runGenerator v) := by
  refine check .malformed ?_
  match (genOp v).toNat with
  | 0 | 1 | 2 | 3 | 4 | 5 | 7 => exact generate _ _ _
  | 6 => exact execGenMix _ _ _
  | n + 8 => exact reject .malformed

theorem execWrChSchcmd (c : Fin P.numCh) (v : Word) : Completes (Machine.execWrChSchcmd c v) :=
  check .malformed <| check .full <| next _

theorem execWrChAppcmd (c : Fin P.numCh) (v : Word) : Completes (Machine.execWrChAppcmd c v) :=
  check .malformed <| check .malformed <| check .full <| next _

/-! ### Instructions by kind -/

theorem execIn_command (c : Fin P.numCh) (k : Nat) (fm : CmdForm) : Completes (execIn (fm.instr c k)) := by
  cases fm <;> exact next _

theorem execIn_generator {op : Nat} {dst srcA srcB : BitVec 8} {i : Instr P} (h : genInstr dst srcA srcB op = some i) :
    Completes (execIn i) := by
  match op with
  | 0 | 1 | 2 | 3 | 4 | 5 | 7 => cases h; exact generate _ _ _
  | 6 => cases h; exact execGenMix _ _ _
  | n + 8 => cases h

theorem execIn_wr_global (v : Word) (r : GReg) : Completes (P := P) (execIn (r.wr v)) := by
  cases r with
  | status => exact reject .generic
  | rgo => exact render
  | gcmd => exact runGenerator v
  | wtaddr | hcaddr | ctaddr | tapaddr => exact storeRanged _ _
  | ctrl | tick | rbase | rcount | rstride | rfmt | garg0 | garg1 | wtdata | hcdata | ctdata | tapdata => exact next _

theorem execIn_wr_channel (c : Fin P.numCh) (v : Word) (r : CReg) : Completes (execIn (r.wr c v)) := by
  cases r with
  | ringdata | logcount | logcursor | logtick | logcmd | envphase | gain | keycnt | notevol | basefreq | bentfreq
  | lastnote | oscpos | lfsr | ringhead => exact reject .generic
  | detune | noteoff | chctrl | schofs | logctrl | apptick | loopstart | loopend => exact chStore c _
  | gensel | attack | decay | sustain | release | faderate | volume | sysvol | fadetgt | ringidx | loopfirst
  | looplast | logidx => exact chStoreRanged c _ _
  | schcmd => exact execWrChSchcmd c v
  | appcmd => exact execWrChAppcmd c v

/-- A read ends in an answer, whatever register it reads (47_host_ops.md R406). -/
theorem execIn_rd (r : Reg P) : Completes (execIn r.rd) := by
  cases r with
  | global r => cases r <;> exact next _
  | channel c r => cases r <;> exact next _

/-- Every instruction completes, at every build (60_exceptions.md R420, R425). -/
theorem execIn (i : Instr P) : Completes (Machine.execIn i) := by
  obtain ⟨c, k, fm, rfl⟩ | ⟨op, dst, srcA, srcB, h⟩ | ⟨r, v, rfl⟩ | ⟨r, rfl⟩ := i.kinds
  · exact execIn_command c k fm
  · exact execIn_generator h
  · cases r with
    | global r => exact execIn_wr_global v r
    | channel c r => exact execIn_wr_channel c v r
  · exact execIn_rd r

end Completes

end Completes

/-- Settles O7: by the kind of the instruction at every build, of which the LSG core is one. -/
theorem everyInstructionCompletes : Obligations.EveryInstructionCompletes :=
  ⟨fun i s => execIn_lsg i s ▸ Completes.execIn i s, fun _ i s => Completes.execIn i s⟩

/-! ### Power-on reset (70_reset_and_hazards.md R450, R453) -/

/-- Whatever stays pending, the state after power-on reset has the power-on values. -/
theorem State.poweredOn_powerOn (rest : List Input) : (powerOn (P := lsg) rest).PoweredOn := by
  have channels (c : Chan) : (powerOn (P := lsg) rest).ch c = Channel.reset := ch_reset c
  have taps (j : Fin NUM_TAPS) : (State.reset.tap[j]).toInt = if j.val = 0 then 0x4000 else 0 := by decide +revert
  exact {
    control := ⟨rfl, rfl, rfl⟩
    render := ⟨rfl, rfl, rfl, rfl, rfl⟩
    args := ⟨rfl, rfl⟩
    pointers := ⟨rfl, rfl, rfl, rfl, rfl⟩
    chans := fun c => channels c ▸ Channel.atDefaults_reset
    logs := fun c => by rw [channels c]; exact ⟨rfl, rfl, rfl, rfl, rfl, rfl, rfl⟩
    staging := fun c => by rw [channels c]; exact ⟨rfl, rfl, rfl, rfl⟩
    wt := fun k i => congrArg BitVec.toInt (silentWavetables_sample (P := lsg) k i)
    ct := fun n => congrArg BitVec.toNat (Vector.getElem_replicate n.isLt)
    hc := fun h => congrArg BitVec.toInt (Vector.getElem_replicate h.isLt)
    tap := taps
    trace := rfl }

/-- Settles O10: the model starts powered on with nothing pending, and the reset input powers on. -/
theorem resetInputGivesPowerOnValues : Obligations.ResetInputGivesPowerOnValues :=
  ⟨State.poweredOn_powerOn [], fun _ rest hp => ⟨powerOn rest, stepBy_reset hp, State.poweredOn_powerOn rest, rfl⟩⟩

/-! ### INIT right after power-on reset (70_reset_and_hazards.md R452) -/

/-- INIT changes nothing in a block powered on: each channel has its defaults. -/
theorem initBlock_atPowerOn (P : Params) : initBlock (State.atPowerOn P) = State.atPowerOn P := by
  have channels : (initBlock (State.atPowerOn P)).chans = (State.atPowerOn P).chans :=
    chans_ext fun c => (ch_initBlock (State.atPowerOn P) c).trans <| by rw [ch_atPowerOn]; exact (ch_atPowerOn c).symm
  calc
    initBlock (State.atPowerOn P)
      = { State.atPowerOn P with chans := (initBlock (State.atPowerOn P)).chans } := rfl
    _ = State.atPowerOn P := by rw [channels]

/-- Settles O14: INIT finds the block at its power-on values, and the status is OK already. -/
theorem initAfterPowerOnChangesNothing : Obligations.InitAfterPowerOnChangesNothing :=
  calc
    exec (.wrCtrl 2) State.reset = .next (done (initBlock State.reset)) := exec_wrCtrl_init (by decide) State.reset
    _ = .next (done State.reset) := congrArg (fun s => Host.Outcome.next (done s)) (initBlock_atPowerOn lsg)

end Sys2Proof.Machine
end
